-- ==== Sys2Proof/Word.lean ====
section
/-! DEFINITION. The words of ZFRAME: every value is an unsigned bit vector of a fixed width, bit 0 least significant (00_scope.md R9). -/

namespace Sys2Proof

/-- A command, operand or response data word: `WORD` = 32 bits (00_scope.md R8, 30_encoding.md R46). -/
abbrev Word := BitVec 32

/-- A 16-bit register: a running sum, or a header `{CMF, FLG}` (10_state.md R15). -/
abbrev Half := BitVec 16

/-- One stream byte, or one header byte. -/
abbrev Byte := BitVec 8

end Sys2Proof
end

