-- ==== Sys2Proof/Syntax.lean ====
section
/-! DEFINITION. The requests of ZFRAME: the two words at the port (30_encoding.md R46), and the decoded request, one constructor per row of the opcode table (30_encoding.md R54). -/

namespace Sys2Proof

/-- A request as the host presents it: command word and operand word, together (30_encoding.md R46, R58). -/
structure Request where
  cmd : Word
  opnd : Word
deriving DecidableEq, Repr

/-- The eight selectors of READ, `SEL` = 0 to 7 in this order (10_state.md R28). -/
inductive ReadSel where
  | adler
  | status
  | header
  | frameLen
  | payloadOff
  | payloadLen
  | trailerOff
  | config
deriving DecidableEq, Repr

/-- The rows of the opcode map, opcodes 0x00 to 0x0D in this order (30_encoding.md R54). -/
inductive Op where
  | nop
  | adlerInit
  | adlerAcc
  | encBegin
  | hdrEmit
  | hdrMake
  | trlPack
  | trlByte
  | hdrCheck
  | frameParse
  | trlCheck
  | read
  | clrErr
  | softReset
deriving DecidableEq, Repr

/-- A decoded request. A field is as wide as the command word makes it (30_encoding.md R50); an operand word that the
format ignores is not kept (30_encoding.md R51; log entry 7). -/
inductive Instr where
  /-- NOP (43_control.md R86). -/
  | nop
  /-- ADLER_INIT (40_adler.md R61). -/
  | adlerInit
  /-- ADLER_ACC: `n` = NM1 + 1 stream bytes, in the lanes of `w` (40_adler.md R62). -/
  | adlerAcc (n : Nat) (w : Word)
  /-- ENC_BEGIN with the CompressionMode code `m`, 3 included (41_encode.md R67, 30_encoding.md R57). -/
  | encBegin (m : BitVec 2)
  /-- HDR_EMIT (41_encode.md R68). -/
  | hdrEmit
  /-- HDR_MAKE (41_encode.md R70). -/
  | hdrMake (cinfo : BitVec 4) (flevel : BitVec 2) (fd : Bool)
  /-- TRL_PACK (41_encode.md R71). -/
  | trlPack
  /-- TRL_BYTE `k` (41_encode.md R72). -/
  | trlByte (k : BitVec 2)
  /-- HDR_CHECK (42_decode.md R77). -/
  | hdrCheck (cmf flg : Byte)
  /-- FRAME_PARSE with the total frame length `len` (42_decode.md R78). -/
  | frameParse (cmf flg : Byte) (len : Word)
  /-- TRL_CHECK with the received trailer `t` (42_decode.md R82). -/
  | trlCheck (t : Word)
  /-- READ (43_control.md R87). -/
  | read (sel : ReadSel)
  /-- CLR_ERR (43_control.md R88). -/
  | clrErr
  /-- SOFT_RESET (43_control.md R89). -/
  | softReset
deriving DecidableEq, Repr

/-- The row of the opcode map a decoded request belongs to. -/
def Instr.op : Instr → Op
  | .nop => .nop
  | .adlerInit => .adlerInit
  | .adlerAcc _ _ => .adlerAcc
  | .encBegin _ => .encBegin
  | .hdrEmit => .hdrEmit
  | .hdrMake _ _ _ => .hdrMake
  | .trlPack => .trlPack
  | .trlByte _ => .trlByte
  | .hdrCheck _ _ => .hdrCheck
  | .frameParse _ _ _ => .frameParse
  | .trlCheck _ => .trlCheck
  | .read _ => .read
  | .clrErr => .clrErr
  | .softReset => .softReset

end Sys2Proof
end

