-- ==== Sys2Proof/WellFormed.lean ====
section
/-! DEFINITION. Which decoded requests are requests of the machine. The only field whose type is wider than its encoding is
the byte count of ADLER_ACC. -/

namespace Sys2Proof

/-- 30_encoding.md R50, R59: a byte count is 1 to 4; every other field is exactly as wide as its encoding. -/
def Instr.WellFormed : Instr → Bool
  | .nop => true
  | .adlerInit => true
  | .adlerAcc n _ => 1 ≤ n && n ≤ 4
  | .encBegin _ => true
  | .hdrEmit => true
  | .hdrMake _ _ _ => true
  | .trlPack => true
  | .trlByte _ => true
  | .hdrCheck _ _ => true
  | .frameParse _ _ _ => true
  | .trlCheck _ => true
  | .read _ => true
  | .clrErr => true
  | .softReset => true

end Sys2Proof
end

