-- ==== Sys2Proof/Decode.lean ====
section
/-! DEFINITION. From the words of a request to a decoded request, and back: the opcode map with its match and mask words
(30_encoding.md R54), the decoding algorithm (R55), the encoder (R59), and the fixed entry point over the opcode table's
bit numbering. -/

namespace Sys2Proof

/-- Why a command word is no request (30_encoding.md R56). Both raise IllegalCommand (60_exceptions.md R93). -/
inductive DecodeError where
  /-- The opcode is 0x0E to 0xFF. -/
  | reservedOpcode
  /-- The opcode is defined and a bit its format marks zero is 1. -/
  | reservedBit
deriving DecidableEq, Repr

/-- One row of the opcode map. -/
structure OpRow where
  op : Op
  pattern : Word
  mask : Word
deriving DecidableEq, Repr

/-- The opcode map, row for row (30_encoding.md R54). -/
def opcodeMap : List OpRow :=
  [ ⟨.nop, 0x00000000, 0xFFFFFFFF⟩,
    ⟨.adlerInit, 0x00000001, 0xFFFFFFFF⟩,
    ⟨.adlerAcc, 0x00000002, 0xFFFFFCFF⟩,
    ⟨.encBegin, 0x00000003, 0xFFFFFCFF⟩,
    ⟨.hdrEmit, 0x00000004, 0xFFFFFFFF⟩,
    ⟨.hdrMake, 0x00000005, 0xFFFF08FF⟩,
    ⟨.trlPack, 0x00000006, 0xFFFFFFFF⟩,
    ⟨.trlByte, 0x00000007, 0xFFFFFCFF⟩,
    ⟨.hdrCheck, 0x00000008, 0xFF0000FF⟩,
    ⟨.frameParse, 0x00000009, 0xFF0000FF⟩,
    ⟨.trlCheck, 0x0000000A, 0xFFFFFFFF⟩,
    ⟨.read, 0x0000000B, 0xFFFFF8FF⟩,
    ⟨.clrErr, 0x0000000C, 0xFFFFFFFF⟩,
    ⟨.softReset, 0x0000000D, 0xFFFFFFFF⟩ ]

/-- 30_encoding.md R54: `cmd` selects the row when `(cmd & mask) == match`. -/
def OpRow.selects (r : OpRow) (cmd : Word) : Bool :=
  cmd &&& r.mask == r.pattern

/-- `OPC = cmd[7:0]` (30_encoding.md R49). -/
def opcodeOf (cmd : Word) : Byte :=
  cmd.extractLsb' 0 8

/-- The selector a 3-bit `SEL` stands for (10_state.md R28). -/
def ReadSel.ofBits (b : BitVec 3) : ReadSel :=
  match b.toNat with
  | 0 => .adler
  | 1 => .status
  | 2 => .header
  | 3 => .frameLen
  | 4 => .payloadOff
  | 5 => .payloadLen
  | 6 => .trailerOff
  | _ => .config

/-- The number of a selector (10_state.md R28). -/
def ReadSel.bits : ReadSel → BitVec 3
  | .adler => 0
  | .status => 1
  | .header => 2
  | .frameLen => 3
  | .payloadOff => 4
  | .payloadLen => 5
  | .trailerOff => 6
  | .config => 7

/-- The fields of a request of a known row (30_encoding.md R50 to R53). -/
def Op.operands (op : Op) (cmd opnd : Word) : Instr :=
  match op with
  | .nop => .nop
  | .adlerInit => .adlerInit
  | .adlerAcc => .adlerAcc ((cmd.extractLsb' 8 2).toNat + 1) opnd
  | .encBegin => .encBegin (cmd.extractLsb' 8 2)
  | .hdrEmit => .hdrEmit
  | .hdrMake => .hdrMake (cmd.extractLsb' 12 4) (cmd.extractLsb' 8 2) (cmd.getLsbD 10)
  | .trlPack => .trlPack
  | .trlByte => .trlByte (cmd.extractLsb' 8 2)
  | .hdrCheck => .hdrCheck (cmd.extractLsb' 16 8) (cmd.extractLsb' 8 8)
  | .frameParse => .frameParse (cmd.extractLsb' 16 8) (cmd.extractLsb' 8 8) opnd
  | .trlCheck => .trlCheck opnd
  | .read => .read (ReadSel.ofBits (cmd.extractLsb' 8 3))
  | .clrErr => .clrErr
  | .softReset => .softReset

/-- 30_encoding.md R55: find the row that matches, or none. -/
def decode (r : Request) : Except DecodeError Instr :=
  match opcodeMap.find? (fun row => row.selects r.cmd) with
  | some row => .ok (row.op.operands r.cmd r.opnd)
  | none => .error (if (opcodeOf r.cmd).toNat < opcodeMap.length then .reservedBit else .reservedOpcode)

/-- A field of a command word: `v` with its lowest bit at bit `at'`. -/
def field {w : Nat} (v : BitVec w) (at' : Nat) : Word :=
  v.setWidth 32 <<< at'

/-- The words of a decoded request, as 30_encoding.md R59 gives them; an ignored operand word is 0. -/
def encode : Instr → Request
  | .nop => ⟨0x00000000, 0⟩
  | .adlerInit => ⟨0x00000001, 0⟩
  | .adlerAcc n w => ⟨0x00000002 ||| field (BitVec.ofNat 2 (n - 1)) 8, w⟩
  | .encBegin m => ⟨0x00000003 ||| field m 8, 0⟩
  | .hdrEmit => ⟨0x00000004, 0⟩
  | .hdrMake cinfo flevel fd => ⟨0x00000005 ||| field cinfo 12 ||| field (BitVec.ofBool fd) 10 ||| field flevel 8, 0⟩
  | .trlPack => ⟨0x00000006, 0⟩
  | .trlByte k => ⟨0x00000007 ||| field k 8, 0⟩
  | .hdrCheck cmf flg => ⟨0x00000008 ||| field cmf 16 ||| field flg 8, 0⟩
  | .frameParse cmf flg len => ⟨0x00000009 ||| field cmf 16 ||| field flg 8, len⟩
  | .trlCheck t => ⟨0x0000000A, t⟩
  | .read sel => ⟨0x0000000B ||| field sel.bits 8, 0⟩
  | .clrErr => ⟨0x0000000C, 0⟩
  | .softReset => ⟨0x0000000D, 0⟩

/-- The request whose bits are `w` in the opcode table's numbering: the command word is bits 31 to 0 and the operand word
bits 63 to 32; a bit at or above `nbits` is 0 (log entry 8). -/
def requestOfTableWord (nbits w : Nat) : Request :=
  let v : BitVec 64 := BitVec.ofNat 64 (w % 2 ^ nbits)
  ⟨v.extractLsb' 0 32, v.extractLsb' 32 32⟩

/-- What the decoder reads from the table word `w`. -/
def decodeTableWord (nbits w : Nat) : Option Instr :=
  match decode (requestOfTableWord nbits w) with
  | .ok i => some i
  | .error _ => none

end Sys2Proof
end

