-- ==== Sys2Proof/Config.lean ====
section
/-! DEFINITION. The fixed constants of ZFRAME (00_scope.md R7) and the parameters of one instance (00_scope.md R8). -/

namespace Sys2Proof.Config

/-- 00_scope.md R7: the modulus of both running sums. -/
abbrev modAdler : Nat := 65521

/-- 00_scope.md R7: `A_INIT`. -/
abbrev aInit : Half := 1

/-- 00_scope.md R7: `B_INIT`. -/
abbrev bInit : Half := 0

/-- 00_scope.md R7: the header is valid when it is 0 modulo this. -/
abbrev hdrMod : Nat := 31

/-- 00_scope.md R7: the compression method of DEFLATE, `CMF[3:0]`. -/
abbrev cmDeflate : BitVec 4 := 8

/-- 00_scope.md R7: the bit of FLG that is FDICT. -/
abbrev fdictBit : Nat := 5

/-- 00_scope.md R7: bytes of a DICTID. -/
abbrev dictidLen : Nat := 4

/-- 00_scope.md R7: bytes of a header. -/
abbrev hdrLen : Nat := 2

/-- 00_scope.md R7: bytes of a trailer. -/
abbrev trlLen : Nat := 4

/-- 00_scope.md R8: the value this spec takes for `EMIT_HEADER`. -/
abbrev emitHeaderDefault : Half := 0x789C

end Sys2Proof.Config

namespace Sys2Proof

/-- The parameters of one instance that are not fixed to one value (00_scope.md R8).
Each is fixed for the life of the instance; no request and no reset changes one (10_state.md R27).
`WORD` = 32 and `LEN_WIDTH` = 32 are the widths of `Word`. -/
structure Params where
  /-- `STRICT_HEADER`: OPEN, both values defined (42_decode.md R76). -/
  strictHeader : Bool
  /-- `VERIFY_TRAILER`: OPEN, both values defined (42_decode.md R82). -/
  verifyTrailer : Bool
  /-- `EMIT_HEADER`: constrained by 41_encode.md R69. -/
  emitHeader : Half
  /-- `ZFRAME_BASE`: OPEN, the platform's, read by no rule (60_exceptions.md R103). -/
  zframeBase : Option Nat
deriving DecidableEq, Repr

/-- The three constraints of 41_encode.md R69 (00_scope.md R8) on `EMIT_HEADER`. -/
def Params.WellFormed (p : Params) : Bool :=
  p.emitHeader.extractLsb' 8 4 == Config.cmDeflate
    && !p.emitHeader.getLsbD Config.fdictBit
    && p.emitHeader.toNat % Config.hdrMod == 0

/-- The instance `State.reset` describes: `EMIT_HEADER` as 00_scope.md R8 takes it; for the OPEN parameters the values of
DOC0's described behaviour, 0 and 0, and no base address (DESIGN CHOICE, unsafe, log entry 2: no statement rests on them). -/
def Params.default : Params :=
  { strictHeader := false, verifyTrailer := false, emitHeader := Config.emitHeaderDefault, zframeBase := none }

end Sys2Proof
end

