-- ==== Sys2Proof/Machine/State.lean ====
section
/-! DEFINITION. The state of one ZFRAME instance: the registers of 10_state.md R15, the parameters of the instance, what the
host will present at the port, and the response presented by the last step. -/

namespace Sys2Proof.Machine

/-- The errors a request can end in (60_exceptions.md R92; 00_scope.md R11). They are responses, not stops: the machine
answers each with a next state (60_exceptions.md R96). -/
inductive Err where
  | invalidArgument
  | malformedInput
  | notImplemented
  | checksumMismatch
  | illegalCommand
deriving DecidableEq, Repr

/-- A response: `rsp_err` and `rsp_data` (30_encoding.md R46, R47). -/
structure Response where
  err : BitVec 3
  data : Word
deriving DecidableEq, Repr

/-- What the host does at the port, in untimed form (30_encoding.md R47; 70_reset_and_hazards.md R107, R119; log entry 5). -/
inductive HostInput where
  /-- `rst = 0` and no request is presented. -/
  | idle
  /-- A request is accepted, and answered before `rst` rises. -/
  | request (r : Request)
  /-- An edge with `rst = 1`; a request presented on the same edge is not accepted. -/
  | reset (presented : Option Request)
  /-- A request is accepted, and `rst` rises before it is answered. -/
  | requestThenReset (r : Request)
deriving DecidableEq, Repr

/-- The registers of one instance, exactly those of 10_state.md R15. -/
structure Regs where
  /-- `ADL_A`, the running sum a (10_state.md R16). -/
  adlA : Half
  /-- `ADL_B`, the running sum b (10_state.md R16). -/
  adlB : Half
  /-- `HDR`, the header last accepted, `{CMF, FLG}` (10_state.md R19). -/
  hdr : Half
  /-- `HDR_VALID` (10_state.md R20). -/
  hdrValid : Bool
  /-- `FRAME_VALID` (10_state.md R21). -/
  frameValid : Bool
  /-- `FRAME_LEN` (10_state.md R21). -/
  frameLen : Word
  /-- `TRL_DONE` (10_state.md R23). -/
  trlDone : Bool
  /-- `TRL_MATCH` (10_state.md R23). -/
  trlMatch : Bool
  /-- `ENC_VALID` (10_state.md R24). -/
  encValid : Bool
  /-- `MODE` (10_state.md R24). -/
  mode : BitVec 2
  /-- `ERR_CODE` (10_state.md R25). -/
  errCode : BitVec 3
  /-- `ERR_STICKY` (10_state.md R25). -/
  errSticky : Bool
deriving DecidableEq, Repr

/-- The "reset" column of 10_state.md R15 (10_state.md R32). -/
def Regs.reset : Regs :=
  { adlA := 1, adlB := 0, hdr := 0, hdrValid := false, frameValid := false, frameLen := 0, trlDone := false,
    trlMatch := false, encValid := false, mode := 0, errCode := 0, errSticky := false }

/-- One instance and its port. -/
structure State where
  /-- The registers. -/
  regs : Regs
  /-- The instance's parameters: constants, which no step changes (10_state.md R27, R30; log entry 1). -/
  params : Params
  /-- What the host will present, oldest first (10_state.md R30; log entry 3). -/
  inputs : List HostInput
  /-- The response the last step presented, `none` for `rsp_valid = 0` (30_encoding.md R47; log entry 4). -/
  rsp : Option Response
deriving DecidableEq, Repr

/-- Why the machine stops. No constructor: every request gets a response, and ZFRAME has no stuck state
(70_reset_and_hazards.md R120). -/
inductive Fault where
deriving DecidableEq, Repr

/-- Why a request has no meaning in the model. -/
inductive Refusal where
  /-- Raised only by `exec`'s arm of an instruction the model has not reached; safe (nothing is claimed of it). No arm raises
  it now. -/
  | notModelled (mnemonic : String)
deriving DecidableEq, Repr

/-- The instance with parameters `p` right after hardware reset (10_state.md R32; 70_reset_and_hazards.md R107), with
nothing presented. -/
def State.resetOf (p : Params) : State :=
  { regs := Regs.reset, params := p, inputs := [], rsp := none }

/-- The machine right after reset: the instance `Params.default` (log entry 2). -/
def State.reset : State :=
  State.resetOf Params.default

end Sys2Proof.Machine
end

