-- ==== Sys2Proof/Machine/Operands.lean ====
section
/-! DEFINITION. Operand forms: the stream bytes of a word (20_memory.md R35), the header value of two bytes (R34), the codes of
the three compression modes (30_encoding.md R53). -/

namespace Sys2Proof.Machine

/-- Stream byte `k` of a word, `w[31-8k : 24-8k]` for `k` in 0..3 (20_memory.md R35). -/
def lane (w : Word) (k : Nat) : Byte :=
  w.extractLsb' (24 - 8 * k) 8

/-- The first `n` stream bytes of a word, lane 0 first (20_memory.md R37). -/
def lanes (w : Word) (n : Nat) : List Byte :=
  (List.range n).map (lane w)

/-- The word that carries four stream bytes (20_memory.md R35). -/
def packLanes (b0 b1 b2 b3 : Byte) : Word :=
  b0 ++ b1 ++ b2 ++ b3

/-- The 16-bit header value `{CMF, FLG}`, big-endian (20_memory.md R34, 30_encoding.md R53). -/
def headerOf (cmf flg : Byte) : Half :=
  cmf ++ flg

/-- The three named modes (00_scope.md R12). -/
inductive CompressionMode where
  | default
  | bestCompression
  | bestSpeed
deriving DecidableEq, Repr

/-- The MODE code of a named mode (30_encoding.md R53). -/
def CompressionMode.code : CompressionMode → BitVec 2
  | .default => 0
  | .bestCompression => 1
  | .bestSpeed => 2

end Sys2Proof.Machine
end

