-- ==== Sys2Proof/Machine/Flags.lean ====
section
/-! DEFINITION. Everything derived from the registers: the header's flags, the frame layout, the effort select, the words
READ returns, and the output signals (10_state.md R16, R20, R22, R24, R26 to R28; 30_encoding.md R48). -/

namespace Sys2Proof.Machine

/-- `CM`, header bits 11:8 (10_state.md R19). -/
def cmOf (h : Half) : BitVec 4 :=
  h.extractLsb' 8 4

/-- `CINFO`, header bits 15:12 (10_state.md R19). -/
def cinfoOf (h : Half) : BitVec 4 :=
  h.extractLsb' 12 4

/-- `FDICT`, header bit 5 (10_state.md R19). -/
def fdictOf (h : Half) : Bool :=
  h.getLsbD Config.fdictBit

/-- `cm_ok` of a header (42_decode.md R76). -/
def cmOk (h : Half) : Bool :=
  cmOf h == Config.cmDeflate

/-- `chk_ok` of a header (42_decode.md R76). -/
def chkOk (h : Half) : Bool :=
  h.toNat % Config.hdrMod == 0

/-- `hdr_ok` of a header on an instance (42_decode.md R76). -/
def hdrOk (p : Params) (h : Half) : Bool :=
  if p.strictHeader then cmOk h && chkOk h else true

/-- The length of the prefix of a frame with header `h`: 2, or 6 with a DICTID (42_decode.md R79). -/
def prefixLen (h : Half) : Word :=
  if fdictOf h then BitVec.ofNat 32 (Config.hdrLen + Config.dictidLen) else BitVec.ofNat 32 Config.hdrLen

/-- The least length of a frame with header `h`: prefix and trailer, 6 or 10 (42_decode.md R79; 90_conflicts.md C1). -/
def minLen (h : Half) : Word :=
  prefixLen h + BitVec.ofNat 32 Config.trlLen

namespace Regs

/-- `ADLER = {ADL_B, ADL_A}` (10_state.md R16). -/
def adler (r : Regs) : Word :=
  r.adlB ++ r.adlA

/-- `FDICT_S` (10_state.md R20). -/
def fdictS (r : Regs) : Bool :=
  r.hdrValid && fdictOf r.hdr

/-- `CM_OK_S` (10_state.md R20). -/
def cmOkS (r : Regs) : Bool :=
  r.hdrValid && cmOk r.hdr

/-- `CHK_OK_S` (10_state.md R20). -/
def chkOkS (r : Regs) : Bool :=
  r.hdrValid && chkOk r.hdr

/-- `PAYLOAD_OFF` (10_state.md R22). -/
def payloadOff (r : Regs) : Word :=
  if r.frameValid then prefixLen r.hdr else 0

/-- `TRAILER_OFF` (10_state.md R22). -/
def trailerOff (r : Regs) : Word :=
  if r.frameValid then r.frameLen - BitVec.ofNat 32 Config.trlLen else 0

/-- `PAYLOAD_LEN` (10_state.md R22). -/
def payloadLen (r : Regs) : Word :=
  if r.frameValid then r.trailerOff - r.payloadOff else 0

/-- `EFFORT`: 1 is high effort (10_state.md R24). -/
def effort (r : Regs) : Bool :=
  r.encValid && r.mode != CompressionMode.bestSpeed.code

/-- The STATUS word, bit 31 first (10_state.md R26). -/
def status (r : Regs) : Word :=
  0#16
    ++ BitVec.ofBool r.errSticky
    ++ r.errCode
    ++ 0#1
    ++ r.mode
    ++ BitVec.ofBool r.effort
    ++ BitVec.ofBool r.encValid
    ++ BitVec.ofBool r.trlMatch
    ++ BitVec.ofBool r.trlDone
    ++ BitVec.ofBool r.frameValid
    ++ BitVec.ofBool r.chkOkS
    ++ BitVec.ofBool r.cmOkS
    ++ BitVec.ofBool r.fdictS
    ++ BitVec.ofBool r.hdrValid

end Regs

/-- The CONFIG word of an instance (10_state.md R27). -/
def configWord (p : Params) : Word :=
  p.emitHeader ++ 0#14 ++ BitVec.ofBool p.verifyTrailer ++ BitVec.ofBool p.strictHeader

/-- The READ register map (10_state.md R28). -/
def readMap (p : Params) (r : Regs) : ReadSel → Word
  | .adler => r.adler
  | .status => r.status
  | .header => r.hdr.setWidth 32
  | .frameLen => r.frameLen
  | .payloadOff => r.payloadOff
  | .payloadLen => r.payloadLen
  | .trailerOff => r.trailerOff
  | .config => configWord p

/-- The status outputs (30_encoding.md R48). -/
structure Outputs where
  effortO : Bool
  encValidO : Bool
  frameValidO : Bool
  errO : Bool
deriving DecidableEq, Repr

/-- Each status output is a function of the registers (30_encoding.md R48, 10_state.md R31). -/
def outputs (r : Regs) : Outputs :=
  { effortO := r.effort, encValidO := r.encValid, frameValidO := r.frameValid, errO := r.errSticky }

/-- `req_ready` on the edge of a host input: 0 exactly when `rst = 1` (70_reset_and_hazards.md R107, R108). In the untimed
model every earlier request has been answered, so no other edge finds ZFRAME busy (30_encoding.md R47; log entry 6). -/
def reqReady : HostInput → Bool
  | .idle => true
  | .request _ => true
  | .reset _ => false
  | .requestThenReset _ => true

end Sys2Proof.Machine
end

