-- ==== Sys2Proof/Machine/Ops.lean ====
section
/-! DEFINITION. The shared operations: answering a request, ending it in an error (the ONE error effect, 60_exceptions.md R96),
the writes of each register group, and both resets. -/

namespace Sys2Proof.Machine

/-- The response code of an error (60_exceptions.md R92). -/
def Err.code : Err → BitVec 3
  | .invalidArgument => 1
  | .malformedInput => 2
  | .notImplemented => 3
  | .checksumMismatch => 4
  | .illegalCommand => 7

/-- The error a response code stands for: none for 0, and for 5 and 6, which are never produced (60_exceptions.md R92). -/
def Err.ofCode (c : BitVec 3) : Option Err :=
  [.invalidArgument, .malformedInput, .notImplemented, .checksumMismatch, .illegalCommand].find? (fun e => e.code == c)

/-- The frame-class errors (60_exceptions.md R92, R96). -/
def Err.frameClass : Err → Bool
  | .invalidArgument => false
  | .malformedInput => true
  | .notImplemented => false
  | .checksumMismatch => true
  | .illegalCommand => false

namespace State

/-- `respond(v)`: the response of a request that succeeds (00_scope.md R10). -/
def respond (s : State) (v : Word) : State :=
  { s with rsp := some ⟨0, v⟩ }

/-- `HDR_VALID`, `FRAME_VALID`, `TRL_DONE` and `TRL_MATCH` become 0 (60_exceptions.md R96). -/
def dropFrame (s : State) : State :=
  { s with regs.hdrValid := false, regs.frameValid := false, regs.trlDone := false, regs.trlMatch := false }

/-- `ERR_CODE` and `ERR_STICKY` (60_exceptions.md R96). -/
def recordError (s : State) (e : Err) : State :=
  { s with regs.errCode := e.code, regs.errSticky := true }

/-- `raise e`: the whole effect of an error, and its response (60_exceptions.md R96). A meaning raises on the state it was
given, so none of its own writes is kept (60_exceptions.md R97). -/
def raise (s : State) (e : Err) : State :=
  let t := s.recordError e
  let t := if e.frameClass then t.dropFrame else t
  { t with rsp := some ⟨e.code, 0⟩ }

/-- `ADL_A <- a ; ADL_B <- b`. -/
def setSums (s : State) (a b : Half) : State :=
  { s with regs.adlA := a, regs.adlB := b }

/-- A new checksum: the sums at `A_INIT` and `B_INIT` (00_scope.md R7; 40_adler.md R61). -/
def startSums (s : State) : State :=
  s.setSums Config.aInit Config.bInit

/-- `MODE <- m ; ENC_VALID <- 1` (41_encode.md R67). -/
def selectMode (s : State) (m : BitVec 2) : State :=
  { s with regs.mode := m, regs.encValid := true }

/-- A new header context: `HDR <- h ; HDR_VALID <- 1`, and no trailer result yet (42_decode.md R77, R78). -/
def openHeader (s : State) (h : Half) : State :=
  { s with regs.hdr := h, regs.hdrValid := true, regs.trlDone := false, regs.trlMatch := false }

/-- `FRAME_VALID <- 0` (42_decode.md R77). -/
def closeFrame (s : State) : State :=
  { s with regs.frameValid := false }

/-- `FRAME_LEN <- len ; FRAME_VALID <- 1` (42_decode.md R78). -/
def openFrame (s : State) (len : Word) : State :=
  { s with regs.frameLen := len, regs.frameValid := true }

/-- `TRL_DONE <- 1 ; TRL_MATCH <- m` (42_decode.md R82). -/
def recordTrailer (s : State) (m : Bool) : State :=
  { s with regs.trlDone := true, regs.trlMatch := m }

/-- `ERR_CODE <- 0 ; ERR_STICKY <- 0` (43_control.md R88). -/
def clearError (s : State) : State :=
  { s with regs.errCode := 0, regs.errSticky := false }

/-- Every register takes its reset value; CONFIG does not change (10_state.md R32; 43_control.md R89). -/
def resetRegs (s : State) : State :=
  { s with regs := Regs.reset }

/-- An edge with `rst = 1`: the registers take their reset values and no response is presented
(70_reset_and_hazards.md R107). -/
def hardReset (s : State) : State :=
  { s.resetRegs with rsp := none }

/-- An edge with nothing presented: `rsp_valid = 0` and no register changes (30_encoding.md R47; 10_state.md R29). -/
def idleEdge (s : State) : State :=
  { s with rsp := none }

end State

end Sys2Proof.Machine
end

