-- ==== Sys2Proof/Machine/Adler.lean ====
section
/-! DEFINITION. The Adler-32 accumulator requests (40_adler.md). -/

namespace Sys2Proof.Machine

/-- `(x + y) mod 65521`, exact before the reduction (40_adler.md R62, R63). -/
def addModAdler (x y : Nat) : Nat :=
  (x + y) % Config.modAdler

/-- One byte step: the new `a` first, then `b` with the new `a` (40_adler.md R62). -/
def foldByte (sums : Nat × Nat) (byte : Byte) : Nat × Nat :=
  let a := addModAdler sums.1 byte.toNat
  (a, addModAdler sums.2 a)

/-- Byte steps over a sequence, first byte first (40_adler.md R62; 20_memory.md R45). -/
def foldBytes (sums : Nat × Nat) (bytes : List Byte) : Nat × Nat :=
  bytes.foldl foldByte sums

/-- The sums take in `bytes`, as one update (40_adler.md R62; 20_memory.md R40). -/
def State.accumulate (s : State) (bytes : List Byte) : State :=
  let sums := foldBytes (s.regs.adlA.toNat, s.regs.adlB.toNat) bytes
  s.setSums (BitVec.ofNat 16 sums.1) (BitVec.ofNat 16 sums.2)

/-- ADLER_INIT (40_adler.md R61). -/
def execAdlerInit (s : State) : Host.Outcome State Fault Refusal :=
  let t := s.startSums
  .next (t.respond t.regs.adler)

/-- ADLER_ACC: the first `n` lanes of `w` (40_adler.md R62). -/
def execAdlerAcc (n : Nat) (w : Word) (s : State) : Host.Outcome State Fault Refusal :=
  let t := s.accumulate (lanes w n)
  .next (t.respond t.regs.adler)

end Sys2Proof.Machine
end

