-- ==== Sys2Proof/Machine/Control.lean ====
section
/-! DEFINITION. The control and register-access requests (43_control.md). -/

namespace Sys2Proof.Machine

/-- NOP (43_control.md R86). -/
def execNop (s : State) : Host.Outcome State Fault Refusal :=
  .next (s.respond 0)

/-- READ: the map on the state before the request (43_control.md R87). -/
def execRead (sel : ReadSel) (s : State) : Host.Outcome State Fault Refusal :=
  .next (s.respond (readMap s.params s.regs sel))

/-- CLR_ERR (43_control.md R88). -/
def execClrErr (s : State) : Host.Outcome State Fault Refusal :=
  .next (s.clearError.respond 0)

/-- SOFT_RESET (43_control.md R89). -/
def execSoftReset (s : State) : Host.Outcome State Fault Refusal :=
  .next (s.resetRegs.respond 0)

end Sys2Proof.Machine
end

