-- ==== Sys2Proof/Machine/DecodeSide.lean ====
section
/-! DEFINITION. The decode-side validator requests (42_decode.md). -/

namespace Sys2Proof.Machine

/-- HDR_CHECK: the response is STATUS after the writes (42_decode.md R77). -/
def execHdrCheck (cmf flg : Byte) (s : State) : Host.Outcome State Fault Refusal :=
  let h := headerOf cmf flg
  let t := (s.openHeader h).closeFrame
  .next (if hdrOk s.params h then t.respond t.regs.status else s.raise .malformedInput)

/-- FRAME_PARSE: header and length checked together (42_decode.md R78; 90_conflicts.md C6). -/
def execFrameParse (cmf flg : Byte) (len : Word) (s : State) : Host.Outcome State Fault Refusal :=
  let h := headerOf cmf flg
  .next
    (if hdrOk s.params h = false ∨ len < minLen h then s.raise .malformedInput
    else ((s.openHeader h).openFrame len).respond (prefixLen h))

/-- TRL_CHECK (42_decode.md R82). -/
def execTrlCheck (t : Word) (s : State) : Host.Outcome State Fault Refusal :=
  let matched := t == s.regs.adler
  .next
    (if s.params.verifyTrailer && !matched then s.raise .checksumMismatch
    else (s.recordTrailer matched).respond ((BitVec.ofBool matched).setWidth 32))

end Sys2Proof.Machine
end

