-- ==== Sys2Proof/Machine/EncodeSide.lean ====
section
/-! DEFINITION. The encode-side formatter requests (41_encode.md). -/

namespace Sys2Proof.Machine

/-- ENC_BEGIN: the mode is checked before any write; code 3 is no CompressionMode (41_encode.md R67, 30_encoding.md R53). -/
def execEncBegin (m : BitVec 2) (s : State) : Host.Outcome State Fault Refusal :=
  .next
    (if m = 3 then s.raise .invalidArgument
    else ((s.startSums).selectMode m).respond (s.params.emitHeader.setWidth 32))

/-- HDR_EMIT (41_encode.md R68). -/
def execHdrEmit (s : State) : Host.Outcome State Fault Refusal :=
  .next (s.respond (s.params.emitHeader.setWidth 32))

/-- The check bits that make `v` a multiple of 31: `(31 - (v mod 31)) mod 31` (41_encode.md R70). -/
def fcheckOf (v : Nat) : Nat :=
  (Config.hdrMod - v % Config.hdrMod) % Config.hdrMod

/-- The header HDR_MAKE computes: CM = 8, FDICT = 0, the level hint in FLG[7:6], check bits in FLG[4:0]
(41_encode.md R70; the two positions PRESUMED by the spec itself, log entry 9). -/
def madeHeader (cinfo : BitVec 4) (flevel : BitVec 2) : Half :=
  let v := (cinfo.toNat * 16 + Config.cmDeflate.toNat) * 256 + flevel.toNat * 64
  BitVec.ofNat 16 (v + fcheckOf v)

/-- HDR_MAKE (41_encode.md R70). -/
def execHdrMake (cinfo : BitVec 4) (flevel : BitVec 2) (fd : Bool) (s : State) : Host.Outcome State Fault Refusal :=
  .next (if fd then s.raise .notImplemented else s.respond ((madeHeader cinfo flevel).setWidth 32))

/-- TRL_PACK: lane k of the response is trailer byte k (41_encode.md R71; 20_memory.md R36). -/
def execTrlPack (s : State) : Host.Outcome State Fault Refusal :=
  .next (s.respond s.regs.adler)

/-- TRL_BYTE `k` (41_encode.md R72). -/
def execTrlByte (k : BitVec 2) (s : State) : Host.Outcome State Fault Refusal :=
  .next (s.respond ((lane s.regs.adler k.toNat).setWidth 32))

end Sys2Proof.Machine
end

