-- ==== Sys2Proof/Machine/Dispatch.lean ====
section
/-! DEFINITION. The meaning of a decoded request: one arm per row of the opcode map (30_encoding.md R54). -/

namespace Sys2Proof.Machine

def exec (i : Instr) (s : State) : Host.Outcome State Fault Refusal :=
  match i with
  | .nop => Sys2Proof.Machine.execNop s
  | .adlerInit => Sys2Proof.Machine.execAdlerInit s
  | .adlerAcc n w => Sys2Proof.Machine.execAdlerAcc n w s
  | .encBegin m => Sys2Proof.Machine.execEncBegin m s
  | .hdrEmit => Sys2Proof.Machine.execHdrEmit s
  | .hdrMake cinfo flevel fd => Sys2Proof.Machine.execHdrMake cinfo flevel fd s
  | .trlPack => Sys2Proof.Machine.execTrlPack s
  | .trlByte k => Sys2Proof.Machine.execTrlByte k s
  | .hdrCheck cmf flg => Sys2Proof.Machine.execHdrCheck cmf flg s
  | .frameParse cmf flg len => Sys2Proof.Machine.execFrameParse cmf flg len s
  | .trlCheck t => Sys2Proof.Machine.execTrlCheck t s
  | .read sel => Sys2Proof.Machine.execRead sel s
  | .clrErr => Sys2Proof.Machine.execClrErr s
  | .softReset => Sys2Proof.Machine.execSoftReset s

end Sys2Proof.Machine
end

