-- ==== Sys2Proof/Machine/Port.lean ====
section
/-! DEFINITION. What one host input does: a request is decoded and executed, or raises IllegalCommand (30_encoding.md R55);
a reset wins over a request (70_reset_and_hazards.md R107, R119). -/

namespace Sys2Proof.Machine

/-- One accepted request, from acceptance to response (30_encoding.md R46, R55; 60_exceptions.md R93). -/
def serve (r : Request) (s : State) : Host.Outcome State Fault Refusal :=
  match decode r with
  | .ok i => exec i s
  | .error _ => .next (s.raise .illegalCommand)

/-- One host input. A request presented while `rst = 1` is not accepted, and one accepted but not yet answered when `rst`
rises gets no response and leaves no effect (70_reset_and_hazards.md R119; log entry 5). -/
def takeInput (x : HostInput) (s : State) : Host.Outcome State Fault Refusal :=
  match x with
  | .idle => .next s.idleEdge
  | .request r => serve r s
  | .reset _ => .next s.hardReset
  | .requestThenReset _ => .next s.hardReset

/-- The next host input and the state without it; nothing presented is an idle edge (log entry 3). -/
def State.nextInput (s : State) : HostInput × State :=
  match s.inputs with
  | [] => (.idle, s)
  | x :: rest => (x, { s with inputs := rest })

/-- The host does `x` at the port before everything else it will do. -/
def State.offer (s : State) (x : HostInput) : State :=
  { s with inputs := x :: s.inputs }

end Sys2Proof.Machine
end

