-- ==== Sys2Proof/Machine/Step.lean ====
section
/-! DEFINITION. One step: the next host input is taken (00_scope.md R6; 20_memory.md R42; 70_reset_and_hazards.md R117). -/

namespace Sys2Proof.Machine

/-- One step of the machine. -/
def step (s : State) : Host.Outcome State Fault Refusal :=
  takeInput s.nextInput.1 s.nextInput.2

/-- `s` with the request of a table word presented next (log entry 3). -/
def State.withFetchWord (s : State) (nbits w : Nat) : State :=
  s.offer (.request (requestOfTableWord nbits w))

end Sys2Proof.Machine
end

