-- ==== Sys2Proof/Machine/Asm.lean ====
section
/-! DEFINITION. The assembler's lines and what each stands for: the syntax of 30_encoding.md R59 and the pseudo-instructions of
R60. An operand out of its range is refused, never truncated. -/

namespace Sys2Proof.Machine

/-- A line: a mnemonic and its operands, as numbers (30_encoding.md R59, R60). -/
inductive AsmLine where
  | nop
  | adlerInit
  | adlerAcc (n w : Nat)
  | encBegin (m : Nat)
  | encBeginNamed (m : CompressionMode)
  | hdrEmit
  | hdrMake (cinfo flevel fd : Nat)
  | trlPack
  | trlByte (k : Nat)
  | hdrCheck (cmf flg : Nat)
  | frameParse (cmf flg len : Nat)
  | trlCheck (w : Nat)
  | read (sel : Nat)
  | readNamed (sel : ReadSel)
  | clrErr
  | softReset
  | acc1 (b : Nat)
  | acc2 (b0 b1 : Nat)
  | acc3 (b0 b1 b2 : Nat)
  | acc4 (b0 b1 b2 b3 : Nat)
  | accs (text : List Char)
  | rdSum
  | rdStat
  | rdHdr
deriving DecidableEq, Repr

/-- ADLER_ACC requests that present `bytes` in order: one of 4 bytes for each 4, then one of the 1 to 3 that remain
(30_encoding.md R60, `ACCS`). -/
def accChunks : List Byte → List Instr
  | b0 :: b1 :: b2 :: b3 :: rest => .adlerAcc 4 (packLanes b0 b1 b2 b3) :: accChunks rest
  | [b0, b1, b2] => [.adlerAcc 3 (packLanes b0 b1 b2 0)]
  | [b0, b1] => [.adlerAcc 2 (packLanes b0 b1 0 0)]
  | [b0] => [.adlerAcc 1 (packLanes b0 0 0 0)]
  | [] => []

/-- The requests of a line, or `none` for an operand out of its range (30_encoding.md R59, R60). -/
def AsmLine.expand : AsmLine → Option (List Instr)
  | .nop => some [.nop]
  | .adlerInit => some [.adlerInit]
  | .adlerAcc n w => if 1 ≤ n ∧ n ≤ 4 ∧ w < 2 ^ 32 then some [.adlerAcc n (BitVec.ofNat 32 w)] else none
  | .encBegin m => if m ≤ 3 then some [.encBegin (BitVec.ofNat 2 m)] else none
  | .encBeginNamed m => some [.encBegin m.code]
  | .hdrEmit => some [.hdrEmit]
  | .hdrMake cinfo flevel fd =>
    if cinfo < 16 ∧ flevel < 4 ∧ fd < 2 then
      some [.hdrMake (BitVec.ofNat 4 cinfo) (BitVec.ofNat 2 flevel) (fd == 1)]
    else none
  | .trlPack => some [.trlPack]
  | .trlByte k => if k ≤ 3 then some [.trlByte (BitVec.ofNat 2 k)] else none
  | .hdrCheck cmf flg =>
    if cmf < 256 ∧ flg < 256 then some [.hdrCheck (BitVec.ofNat 8 cmf) (BitVec.ofNat 8 flg)] else none
  | .frameParse cmf flg len =>
    if cmf < 256 ∧ flg < 256 ∧ len < 2 ^ 32 then
      some [.frameParse (BitVec.ofNat 8 cmf) (BitVec.ofNat 8 flg) (BitVec.ofNat 32 len)]
    else none
  | .trlCheck w => if w < 2 ^ 32 then some [.trlCheck (BitVec.ofNat 32 w)] else none
  | .read sel => if sel ≤ 7 then some [.read (ReadSel.ofBits (BitVec.ofNat 3 sel))] else none
  | .readNamed sel => some [.read sel]
  | .clrErr => some [.clrErr]
  | .softReset => some [.softReset]
  | .acc1 b0 => if b0 < 256 then some (accChunks [BitVec.ofNat 8 b0]) else none
  | .acc2 b0 b1 =>
    if b0 < 256 ∧ b1 < 256 then some (accChunks [BitVec.ofNat 8 b0, BitVec.ofNat 8 b1]) else none
  | .acc3 b0 b1 b2 =>
    if b0 < 256 ∧ b1 < 256 ∧ b2 < 256 then
      some (accChunks [BitVec.ofNat 8 b0, BitVec.ofNat 8 b1, BitVec.ofNat 8 b2])
    else none
  | .acc4 b0 b1 b2 b3 =>
    if b0 < 256 ∧ b1 < 256 ∧ b2 < 256 ∧ b3 < 256 then
      some (accChunks [BitVec.ofNat 8 b0, BitVec.ofNat 8 b1, BitVec.ofNat 8 b2, BitVec.ofNat 8 b3])
    else none
  | .accs text =>
    if text.all (fun c => c.toNat < 128) then some (accChunks (text.map (fun c => BitVec.ofNat 8 c.toNat))) else none
  | .rdSum => some [.read .adler]
  | .rdStat => some [.read .status]
  | .rdHdr => some [.read .header]

/-- The words of a line. -/
def AsmLine.assemble (l : AsmLine) : Option (List Request) :=
  l.expand.map (fun is => is.map encode)

end Sys2Proof.Machine
end

