-- ==== Sys2Proof/Machine/Run.lean ====
section
/-! DEFINITION. Runs and what is observed of one (70_reset_and_hazards.md R120), and several instances on one platform
(60_exceptions.md R104). -/

namespace Sys2Proof.Machine

/-- A run over what the host does, in order: the responses, and the last state (70_reset_and_hazards.md R120). -/
def run (s : State) : List HostInput → List Response × State
  | [] => ([], s)
  | x :: rest =>
    match step (s.offer x) with
    | .next t => (t.rsp.toList ++ (run t rest).1, (run t rest).2)
    | .fault _ => ([], s)
    | .refused _ => ([], s)

/-- A run over requests alone. -/
def runRequests (s : State) (rs : List Request) : List Response × State :=
  run s (rs.map .request)

/-- The instances of one platform: each its own registers and its own port (60_exceptions.md R104). -/
structure Platform where
  instances : List State
deriving DecidableEq, Repr

/-- Instance `k` takes one step; no other instance is reached (60_exceptions.md R104). -/
def Platform.stepAt (p : Platform) (k : Nat) : Platform :=
  match p.instances[k]? with
  | none => p
  | some s =>
    match step s with
    | .next t => ⟨p.instances.set k t⟩
    | .fault _ => p
    | .refused _ => p

end Sys2Proof.Machine
end

