-- ==== Sys2Proof/Machine/Procedures.lean ====
section
/-! DEFINITION. The host's two procedures, which compose ZFRAME with the external DEFLATE engine: Encode (41_encode.md R73)
and Decode (42_decode.md R83). The engine is an argument (00_scope.md R5). -/

namespace Sys2Proof.Machine

/-- A part of a byte stream as one ADLER_ACC carries it: how many bytes, and the word (40_adler.md R62). -/
structure Chunk where
  n : Nat
  w : Word
deriving DecidableEq, Repr

/-- The byte count is 1 to 4 (30_encoding.md R50). -/
def Chunk.WellFormed (c : Chunk) : Bool :=
  1 ≤ c.n && c.n ≤ 4

/-- The stream bytes the chunks carry, in order (20_memory.md R45). -/
def chunkBytes (cs : List Chunk) : List Byte :=
  cs.flatMap (fun c => lanes c.w c.n)

/-- The ADLER_ACC requests of the chunks, in order. -/
def accRequests (cs : List Chunk) : List Request :=
  cs.map (fun c => encode (.adlerAcc c.n c.w))

/-- The frame of a header word, a payload and a trailer word: `[CMF][FLG][payload][t0 t1 t2 t3]` (41_encode.md R73;
20_memory.md R34). -/
def frameOf (header : Word) (payload : List Byte) (trailer : Word) : List Byte :=
  [header.extractLsb' 8 8, header.extractLsb' 0 8] ++ payload ++ lanes trailer 4

/-- Encode (41_encode.md R73): `none` when ENC_BEGIN fails. `compress` is the engine, given the bytes and the effort. -/
def encodeProcedure (s : State) (m : BitVec 2) (cs : List Chunk) (compress : List Byte → Bool → List Byte) :
    Option (List Byte) × State :=
  match runRequests s [encode (.encBegin m)] with
  | ([p], t) =>
    if p.err = 0 then
      let payload := compress (chunkBytes cs) (outputs t.regs).effortO
      match runRequests t (accRequests cs ++ [encode .trlPack]) with
      | (ps, u) => (ps.getLast?.map (fun q => frameOf p.data payload q.data), u)
    else (none, t)
  | (_, t) => (none, t)

/-- What the engine's decompressor answers: its whole output, or a failure with what it had put out by then
(42_decode.md R80, R83; 60_exceptions.md R106). -/
inductive EngineResult where
  | done (bytes : List Byte)
  | failed (partialOutput : List Byte)
deriving DecidableEq, Repr

/-- Why the host's Decode returns no output. -/
inductive HostError where
  /-- The host reports this error: that of a ZFRAME response, or MalformedInput for the engine (42_decode.md R83). -/
  | reported (e : Err)
  /-- `LEN_WIDTH` cannot hold the frame's length, so FRAME_PARSE cannot be asked (92_eei_decisions.md D26; log entry 12). -/
  | tooLong
  /-- ZFRAME gave no response. It always gives one (70_reset_and_hazards.md R120). -/
  | noResponse
deriving DecidableEq, Repr

/-- What 42_decode.md R83 leaves to the host, besides how it cuts the decompressed bytes. -/
structure HostChoices where
  /-- Passed as `byte0` for a frame of no bytes (step 1). -/
  byte0 : Byte
  /-- Passed as `byte1` for a frame of fewer than 2 bytes (step 1). -/
  byte1 : Byte
  /-- The host stops after step 2 where step 3 lets it. -/
  stopEarly : Bool
deriving DecidableEq, Repr

/-- The last response of a run as the host takes it: the error it carries, or the response. -/
def answerOf (ps : List Response) : Except HostError Response :=
  match ps.getLast? with
  | none => .error .noResponse
  | some p =>
    match Err.ofCode p.err with
    | some e => .error (.reported e)
    | none => .ok p

/-- The trailer word of a frame, `{frame[L-4], frame[L-3], frame[L-2], frame[L-1]}` (42_decode.md R83, step 5). -/
def trailerOf (frame : List Byte) : Word :=
  packLanes (frame.getD (frame.length - 4) 0) (frame.getD (frame.length - 3) 0)
    (frame.getD (frame.length - 2) 0) (frame.getD (frame.length - 1) 0)

/-- Decode (42_decode.md R83), step by step: FRAME_PARSE; the engine on the payload range of R80, whose failure is
MalformedInput and whose partial output is dropped; the stop that `VERIFY_TRAILER = 0` permits; the checksum of the
decompressed bytes, cut by `chop`; TRL_CHECK. -/
def decodeProcedure (s : State) (frame : List Byte) (decompress : List Byte → EngineResult)
    (chop : List Byte → List Chunk) (host : HostChoices) : Except HostError (List Byte) × State :=
  if 2 ^ 32 ≤ frame.length then (.error .tooLong, s)
  else
    let parsed := runRequests s
      [encode (.frameParse (frame.getD 0 host.byte0) (frame.getD 1 host.byte1) (BitVec.ofNat 32 frame.length))]
    match answerOf parsed.1 with
    | .error e => (.error e, parsed.2)
    | .ok p =>
      match decompress ((frame.take (frame.length - 4)).drop p.data.toNat) with
      | .failed _ => (.error (.reported .malformedInput), parsed.2)
      | .done bytes =>
        if host.stopEarly && !s.params.verifyTrailer then (.ok bytes, parsed.2)
        else
          let checked := runRequests parsed.2
            (encode .adlerInit :: accRequests (chop bytes) ++ [encode (.trlCheck (trailerOf frame))])
          ((answerOf checked.1).map (fun _ => bytes), checked.2)

end Sys2Proof.Machine
end

