-- ==== Sys2Proof/Safety.lean ====
section
/-! DEFINITION. What the statements are said in: the legal states (the invariants of 10_state.md), the checksum as DOC0
defines it, and the states a run reaches. -/

namespace Sys2Proof.Machine

/-- The codes ERR_CODE may hold (10_state.md R15; 60_exceptions.md R92: 5 and 6 are never produced). -/
def legalErrCode (c : BitVec 3) : Bool :=
  c != 5 && c != 6

/-- The legal registers of an instance with parameters `p`. -/
structure Legal (p : Params) (r : Regs) : Prop where
  /-- 10_state.md R18. -/
  adlA_lt : r.adlA.toNat < 65521
  /-- 10_state.md R18. -/
  adlB_lt : r.adlB.toNat < 65521
  /-- 10_state.md R15, the legal values of MODE. -/
  mode_legal : r.mode ≠ 3
  /-- 10_state.md R24: MODE is that of an ENC_BEGIN that succeeded, or the reset value. -/
  mode_unset : r.encValid = false → r.mode = 0
  /-- 10_state.md R15, the legal values of ERR_CODE. -/
  errCode_legal : legalErrCode r.errCode = true
  /-- 10_state.md R25: the code is 0 when there has been no error. -/
  errSticky_iff : r.errSticky = true ↔ r.errCode ≠ 0
  /-- 10_state.md R21. -/
  frame_has_header : r.frameValid = true → r.hdrValid = true
  /-- 10_state.md R21: `FRAME_LEN >= 6 + 4*HDR[5]`. -/
  frame_long_enough : r.frameValid = true → 6 + 4 * (r.hdr.getLsbD 5).toNat ≤ r.frameLen.toNat
  /-- 10_state.md R23. -/
  match_is_done : r.trlMatch = true → r.trlDone = true
  /-- 10_state.md R20, with `STRICT_HEADER = 1`. -/
  strict_header : p.strictHeader = true → r.hdrValid = true → r.cmOkS = true ∧ r.chkOkS = true
  /-- 42_decode.md R82, with `VERIFY_TRAILER = 1`: a completed check has matched. -/
  verified_trailer : p.verifyTrailer = true → r.trlDone = true → r.trlMatch = true
  /-- 41_encode.md R69. -/
  params_wellFormed : p.WellFormed = true

/-- The legal states: legal registers; what the host presents and the response presented are anything. -/
abbrev State.Inv (s : State) : Prop :=
  Legal s.params s.regs

/-- The states a run of some instance reaches from reset, whatever the host does (70_reset_and_hazards.md R120). -/
inductive Reachable : State → Prop where
  | reset (p : Params) (inputs : List HostInput) : p.WellFormed = true → Reachable { State.resetOf p with inputs := inputs }
  | step {s t : State} : Reachable s → Machine.step s = .next t → Reachable t

/-- The running sums of `Calculate` after `data`, from sums `a` and `b` (40_adler.md, the text of DOC0 §4.1). -/
def calculateFrom (a b : Nat) : List Byte → Nat × Nat
  | [] => (a, b)
  | d :: rest => calculateFrom ((a + d.toNat) % 65521) ((b + (a + d.toNat) % 65521) % 65521) rest

/-- DOC0's `Calculate(data) -> uint32`: a starts at 1, b at 0, the result is `(b<<16)|a` (40_adler.md). -/
def calculate (data : List Byte) : Nat :=
  (calculateFrom 1 0 data).2 * 65536 + (calculateFrom 1 0 data).1

/-- The requests of opcode `opc` (30_encoding.md R51): one with a 1 among the format's zero bits is illegal, any other
decodes as `build` says, whatever an ignored operand word holds. -/
def DecodesAs (opc : Byte) (zeroBits : Word) (build : Word → Word → Instr) : Prop :=
  ∀ cmd opnd : Word, cmd.extractLsb' 0 8 = opc →
    decode ⟨cmd, opnd⟩ = if cmd &&& zeroBits = 0 then .ok (build cmd opnd) else .error .reservedBit

/-- The match and mask words of a row, as the second table of 30_encoding.md R54 prints them. -/
def Op.matchMask : Op → Word × Word
  | .nop => (0x00000000, 0xFFFFFFFF)
  | .adlerInit => (0x00000001, 0xFFFFFFFF)
  | .adlerAcc => (0x00000002, 0xFFFFFCFF)
  | .encBegin => (0x00000003, 0xFFFFFCFF)
  | .hdrEmit => (0x00000004, 0xFFFFFFFF)
  | .hdrMake => (0x00000005, 0xFFFF08FF)
  | .trlPack => (0x00000006, 0xFFFFFFFF)
  | .trlByte => (0x00000007, 0xFFFFFCFF)
  | .hdrCheck => (0x00000008, 0xFF0000FF)
  | .frameParse => (0x00000009, 0xFF0000FF)
  | .trlCheck => (0x0000000A, 0xFFFFFFFF)
  | .read => (0x0000000B, 0xFFFFF8FF)
  | .clrErr => (0x0000000C, 0xFFFFFFFF)
  | .softReset => (0x0000000D, 0xFFFFFFFF)

/-- 30_encoding.md R54: `(cmd & mask) == match`. -/
abbrev Op.Matches (o : Op) (cmd : Word) : Prop :=
  cmd &&& (Op.matchMask o).2 = (Op.matchMask o).1

/-- The illegal command words, opcode by opcode (30_encoding.md R51, R56). -/
abbrev IllegalCmd (cmd : Word) : Prop :=
  14 ≤ cmd.toNat % 256
    ∨ (cmd.toNat % 256 ∈ [0, 1, 4, 6, 10, 12, 13] ∧ cmd.toNat / 2 ^ 8 ≠ 0)
    ∨ (cmd.toNat % 256 ∈ [2, 3, 7] ∧ cmd.toNat / 2 ^ 10 ≠ 0)
    ∨ (cmd.toNat % 256 = 5 ∧ (cmd.toNat / 2 ^ 16 ≠ 0 ∨ cmd.getLsbD 11 = true))
    ∨ (cmd.toNat % 256 ∈ [8, 9] ∧ cmd.toNat / 2 ^ 24 ≠ 0)
    ∨ (cmd.toNat % 256 = 11 ∧ cmd.toNat / 2 ^ 11 ≠ 0)

/-- The rows whose operand word is not ignored: formats A and D, and FRAME_PARSE (30_encoding.md R51). -/
def Op.usesOperand : Op → Bool
  | .nop => false
  | .adlerInit => false
  | .adlerAcc => true
  | .encBegin => false
  | .hdrEmit => false
  | .hdrMake => false
  | .trlPack => false
  | .trlByte => false
  | .hdrCheck => false
  | .frameParse => true
  | .trlCheck => true
  | .read => false
  | .clrErr => false
  | .softReset => false

/-- A header passes the checks of an instance: all of them do when `STRICT_HEADER = 0` (42_decode.md R76). -/
abbrev HeaderPasses (p : Params) (cmf flg : Byte) : Prop :=
  p.strictHeader = true → cmf.toNat % 16 = 8 ∧ (cmf.toNat * 256 + flg.toNat) % 31 = 0

/-- The least frame length, `6 + 4*FLG[5]` (60_exceptions.md R94; 42_decode.md R79). -/
def leastFrame (flg : Byte) : Nat :=
  6 + 4 * (flg.getLsbD 5).toNat

/-- A frame that FRAME_PARSE accepts on an instance: a header that passes, the least length or more, and a length that
`LEN_WIDTH` holds (42_decode.md R78). -/
abbrev FrameAccepted (p : Params) (f : List Byte) : Prop :=
  HeaderPasses p (f.getD 0 0) (f.getD 1 0) ∧ leastFrame (f.getD 1 0) ≤ f.length ∧ f.length < 2 ^ 32

/-- The number four trailer bytes stand for, most significant first (20_memory.md R34). -/
def trailerNat (t0 t1 t2 t3 : Byte) : Nat :=
  ((t0.toNat * 256 + t1.toNat) * 256 + t2.toNat) * 256 + t3.toNat

/-- Which error a decoded request ends in, 0 for none: the table of 60_exceptions.md R94. -/
def ErrorTable (s : State) : Instr → BitVec 3 → Prop
  | .nop, e => e = 0
  | .adlerInit, e => e = 0
  | .adlerAcc _ _, e => e = 0
  | .encBegin m, e => (m = 3 → e = 1) ∧ (m ≠ 3 → e = 0)
  | .hdrEmit, e => e = 0
  | .hdrMake _ _ fd, e => (fd = true → e = 3) ∧ (fd = false → e = 0)
  | .trlPack, e => e = 0
  | .trlByte _, e => e = 0
  | .hdrCheck cmf flg, e => (¬ HeaderPasses s.params cmf flg → e = 2) ∧ (HeaderPasses s.params cmf flg → e = 0)
  | .frameParse cmf flg len, e =>
    (len.toNat < leastFrame flg ∨ ¬ HeaderPasses s.params cmf flg → e = 2)
      ∧ (leastFrame flg ≤ len.toNat → HeaderPasses s.params cmf flg → e = 0)
  | .trlCheck t, e =>
    (s.params.verifyTrailer = true → t ≠ s.regs.adlB ++ s.regs.adlA → e = 4)
      ∧ (s.params.verifyTrailer = false ∨ t = s.regs.adlB ++ s.regs.adlA → e = 0)
  | .read _, e => e = 0
  | .clrErr, e => e = 0
  | .softReset, e => e = 0

/-- One byte step in hardware: 17-bit sums and one conditional subtraction each (40_adler.md R63). -/
def byteStep17 (a b : Half) (byte : Byte) : Half × Half :=
  let sa : BitVec 17 := a.setWidth 17 + byte.setWidth 17
  let a' : BitVec 17 := if 65521 ≤ sa then sa - 65521 else sa
  let sb : BitVec 17 := b.setWidth 17 + a'
  let b' : BitVec 17 := if 65521 ≤ sb then sb - 65521 else sb
  (a'.setWidth 16, b'.setWidth 16)

/-- The register updates 60_exceptions.md R96 gives for the response code `e`, written register by register. -/
def afterError (r : Regs) (e : BitVec 3) : Regs :=
  if e = 2 ∨ e = 4 then
    { r with errCode := e, errSticky := true, hdrValid := false, frameValid := false, trlDone := false, trlMatch := false }
  else { r with errCode := e, errSticky := true }

end Sys2Proof.Machine
end

