-- ==== Sys2Proof/Certificates/Slice0/Obligations.lean ====
section
/-! DEFINITION. The statements for the provers. Each docstring names the rule of spec/ it formalises. -/

open Sys2Proof Sys2Proof.Machine

/-! ### Encoding and decoding -/

/-- 30_encoding.md R54, R59: the words of every request decode to that request, with every operand at every value. -/
def Obligations.DecodeEncodeRoundTrip : Prop :=
  ∀ i : Instr, i.WellFormed = true → decode (encode i) = .ok i

/-- 30_encoding.md R51, R54, R55: a request that decodes is the encoding of what it decodes to: no bit of the command word, and
no bit of an operand word the format uses, is dropped. That the encoding has 0 for an operand word the format ignores is the
opnd column of R59 and the model's choice of what to keep, log entry 7. -/
def Obligations.EncodeDecodeRoundTrip : Prop :=
  ∀ (r : Request) (i : Instr), decode r = .ok i →
    i.WellFormed = true ∧ (encode i).cmd = r.cmd ∧
      (encode i).opnd = if Op.usesOperand i.op then r.opnd else 0

/-- 30_encoding.md R55, the decoding algorithm, with what the machine then does. -/
def Obligations.RequestRunsTheRowThatMatches : Prop :=
  ∀ (s : State) (r : Request) (rest : List HostInput), s.inputs = .request r :: rest →
    (∀ o o' : Op, Op.Matches o r.cmd → Op.Matches o' r.cmd → o = o')
    ∧ (∀ o : Op, Op.Matches o r.cmd →
        ∃ i : Instr, i.op = o ∧ decode r = .ok i ∧ step s = exec i { s with inputs := rest })
    ∧ ((∀ o : Op, ¬ Op.Matches o r.cmd) →
        step s = .next { s with inputs := rest, regs := afterError s.regs 7, rsp := some ⟨7, 0⟩ })
    ∧ (∀ opnd : Word, (decode ⟨r.cmd, opnd⟩).map Instr.op = (decode r).map Instr.op)

/-- 60_exceptions.md R93: IllegalCommand is raised exactly for the illegal command words, and `ERR_CODE = 7` (with the
sticky flag of R96) is the only trace. -/
def Obligations.IllegalCommandExactly : Prop :=
  ∀ (s : State) (cmd opnd : Word) (rest : List HostInput), s.inputs = .request ⟨cmd, opnd⟩ :: rest →
    (IllegalCmd cmd ↔ ∀ o : Op, ¬ Op.Matches o cmd)
    ∧ (IllegalCmd cmd →
      step s = .next { s with inputs := rest, regs := { s.regs with errCode := 7, errSticky := true }, rsp := some ⟨7, 0⟩ })
    ∧ (¬ IllegalCmd cmd →
      ∃ (t : State) (p : Response), step s = .next t ∧ t.rsp = some p ∧ p.err ≠ 7)

/-- Words of 30_encoding.md R59 and 95_test_vectors.md L2, L3, one or more per family. -/
def Obligations.PrintedWordsDecode : Prop :=
  decode ⟨0x00000302, 0x57696B69⟩ = .ok (.adlerAcc 4 0x57696B69)
  ∧ decode ⟨0x00000203, 5⟩ = .ok (.encBegin 2)
  ∧ decode ⟨0x00007205, 0⟩ = .ok (.hdrMake 7 2 false)
  ∧ decode ⟨0x00007605, 0⟩ = .ok (.hdrMake 7 2 true)
  ∧ decode ⟨0x0078BB09, 0x14⟩ = .ok (.frameParse 0x78 0xBB 20)
  ∧ decode ⟨0x0000000A, 0x024D0127⟩ = .ok (.trlCheck 0x024D0127)
  ∧ decode ⟨0x0000060B, 0⟩ = .ok (.read .trailerOff)
  ∧ decode ⟨0x0000080B, 0⟩ = .error .reservedBit
  ∧ decode ⟨0x000000FF, 0⟩ = .error .reservedOpcode

/-- 30_encoding.md R59: every syntax line, its words, and the lines refused. -/
def Obligations.AssemblerWords : Prop :=
  AsmLine.nop.assemble = some [⟨0x00000000, 0⟩]
  ∧ AsmLine.adlerInit.assemble = some [⟨0x00000001, 0⟩]
  ∧ (∀ n w : Nat, (AsmLine.adlerAcc n w).assemble =
      if 1 ≤ n ∧ n ≤ 4 ∧ w < 2 ^ 32 then some [⟨BitVec.ofNat 32 (0x00000002 ||| (n - 1) <<< 8), BitVec.ofNat 32 w⟩] else none)
  ∧ (∀ m : Nat, (AsmLine.encBegin m).assemble =
      if m ≤ 3 then some [⟨BitVec.ofNat 32 (0x00000003 ||| m <<< 8), 0⟩] else none)
  ∧ (AsmLine.encBeginNamed .default).assemble = (AsmLine.encBegin 0).assemble
  ∧ (AsmLine.encBeginNamed .bestCompression).assemble = (AsmLine.encBegin 1).assemble
  ∧ (AsmLine.encBeginNamed .bestSpeed).assemble = (AsmLine.encBegin 2).assemble
  ∧ AsmLine.hdrEmit.assemble = some [⟨0x00000004, 0⟩]
  ∧ (∀ cinfo flevel fd : Nat, (AsmLine.hdrMake cinfo flevel fd).assemble =
      if cinfo < 16 ∧ flevel < 4 ∧ fd < 2 then
        some [⟨BitVec.ofNat 32 (0x00000005 ||| cinfo <<< 12 ||| fd <<< 10 ||| flevel <<< 8), 0⟩]
      else none)
  ∧ AsmLine.trlPack.assemble = some [⟨0x00000006, 0⟩]
  ∧ (∀ k : Nat, (AsmLine.trlByte k).assemble =
      if k ≤ 3 then some [⟨BitVec.ofNat 32 (0x00000007 ||| k <<< 8), 0⟩] else none)
  ∧ (∀ cmf flg : Nat, (AsmLine.hdrCheck cmf flg).assemble =
      if cmf < 256 ∧ flg < 256 then some [⟨BitVec.ofNat 32 (0x00000008 ||| cmf <<< 16 ||| flg <<< 8), 0⟩] else none)
  ∧ (∀ cmf flg len : Nat, (AsmLine.frameParse cmf flg len).assemble =
      if cmf < 256 ∧ flg < 256 ∧ len < 2 ^ 32 then
        some [⟨BitVec.ofNat 32 (0x00000009 ||| cmf <<< 16 ||| flg <<< 8), BitVec.ofNat 32 len⟩]
      else none)
  ∧ (∀ w : Nat, (AsmLine.trlCheck w).assemble = if w < 2 ^ 32 then some [⟨0x0000000A, BitVec.ofNat 32 w⟩] else none)
  ∧ (∀ sel : Nat, (AsmLine.read sel).assemble =
      if sel ≤ 7 then some [⟨BitVec.ofNat 32 (0x0000000B ||| sel <<< 8), 0⟩] else none)
  ∧ (AsmLine.readNamed .adler).assemble = (AsmLine.read 0).assemble
  ∧ (AsmLine.readNamed .status).assemble = (AsmLine.read 1).assemble
  ∧ (AsmLine.readNamed .header).assemble = (AsmLine.read 2).assemble
  ∧ (AsmLine.readNamed .frameLen).assemble = (AsmLine.read 3).assemble
  ∧ (AsmLine.readNamed .payloadOff).assemble = (AsmLine.read 4).assemble
  ∧ (AsmLine.readNamed .payloadLen).assemble = (AsmLine.read 5).assemble
  ∧ (AsmLine.readNamed .trailerOff).assemble = (AsmLine.read 6).assemble
  ∧ (AsmLine.readNamed .config).assemble = (AsmLine.read 7).assemble
  ∧ AsmLine.clrErr.assemble = some [⟨0x0000000C, 0⟩]
  ∧ AsmLine.softReset.assemble = some [⟨0x0000000D, 0⟩]

/-- 30_encoding.md R60: each pseudo-instruction is exactly its expansion; `ACCS` presents the text's bytes in order, four a
request while four remain. -/
def Obligations.PseudoInstructionsExpand : Prop :=
  (∀ b : Nat, b < 256 → (AsmLine.acc1 b).expand = (AsmLine.adlerAcc 1 (b <<< 24)).expand)
  ∧ (∀ b0 b1 : Nat, b0 < 256 → b1 < 256 →
      (AsmLine.acc2 b0 b1).expand = (AsmLine.adlerAcc 2 (b0 <<< 24 ||| b1 <<< 16)).expand)
  ∧ (∀ b0 b1 b2 : Nat, b0 < 256 → b1 < 256 → b2 < 256 →
      (AsmLine.acc3 b0 b1 b2).expand = (AsmLine.adlerAcc 3 (b0 <<< 24 ||| b1 <<< 16 ||| b2 <<< 8)).expand)
  ∧ (∀ b0 b1 b2 b3 : Nat, b0 < 256 → b1 < 256 → b2 < 256 → b3 < 256 →
      (AsmLine.acc4 b0 b1 b2 b3).expand =
        (AsmLine.adlerAcc 4 (b0 <<< 24 ||| b1 <<< 16 ||| b2 <<< 8 ||| b3)).expand)
  ∧ (∀ text : List Char, (∀ c ∈ text, c.toNat < 128) → ∃ cs : List Chunk,
      (AsmLine.accs text).expand = some (cs.map (fun c => .adlerAcc c.n c.w))
      ∧ chunkBytes cs = text.map (fun c => BitVec.ofNat 8 c.toNat)
      ∧ cs.length = (text.length + 3) / 4
      ∧ (∀ c ∈ cs.dropLast, c.n = 4) ∧ (∀ c ∈ cs, c.WellFormed = true))
  ∧ AsmLine.rdSum.expand = (AsmLine.read 0).expand
  ∧ AsmLine.rdStat.expand = (AsmLine.read 1).expand
  ∧ AsmLine.rdHdr.expand = (AsmLine.read 2).expand

/-! ### The step -/

/-- 00_scope.md R6, 30_encoding.md R55: a step on a request that decodes is `exec` of what it decodes to, on the state
without that request; nothing else surrounds it. -/
def Obligations.StepRunsTheDecodedRequest : Prop :=
  ∀ (s : State) (r : Request) (rest : List HostInput) (i : Instr),
    s.inputs = .request r :: rest → decode r = .ok i → step s = exec i { s with inputs := rest }

/-- The model's choice (log entry 3), with 10_state.md R29 and 30_encoding.md R47: a step with nothing presented is an idle
edge. -/
def Obligations.IdleStepChangesNoRegister : Prop :=
  ∀ s : State,
    (s.inputs = [] → step s = .next { s with rsp := none })
    ∧ (∀ rest : List HostInput, s.inputs = .idle :: rest → step s = .next { s with inputs := rest, rsp := none })

/-- 70_reset_and_hazards.md R120, 30_encoding.md R46: there is no stuck state, and every accepted request that no reset cuts off
gets exactly one response. A reset edge, with or without a request presented, and a request cut off by reset get none
(70_reset_and_hazards.md R107, R119, in the untimed form of log entry 5); a step with nothing presented is an idle edge, the
model's choice, log entry 3. -/
def Obligations.EveryRequestIsAnswered : Prop :=
  (∀ s : State, ∃ t : State, step s = .next t ∧ t.inputs = s.inputs.tail
    ∧ (t.rsp.isSome = true ↔ ∃ (r : Request) (rest : List HostInput), s.inputs = .request r :: rest))
  ∧ (∀ (s : State) (rs : List Request), (runRequests s rs).1.length = rs.length)

/-- 20_memory.md R40, 60_exceptions.md R100: every decoded request completes in one step that touches the registers and the
response, never the parameters or what the host presents next. -/
def Obligations.EveryInstructionCompletes : Prop :=
  ∀ (i : Instr) (s : State), ∃ (r : Regs) (p : Response), exec i s = .next { s with regs := r, rsp := some p }

/-- 70_reset_and_hazards.md R107, R119, in the untimed form of log entry 5: reset wins over a request presented on the same
edge and discards one not yet answered; no response is presented. -/
def Obligations.ResetWinsOverRequests : Prop :=
  ∀ (s : State) (rest : List HostInput) (x : HostInput), s.inputs = x :: rest →
    ((∃ presented : Option Request, x = .reset presented) ∨ (∃ r : Request, x = .requestThenReset r)) →
    step s = .next { State.resetOf s.params with inputs := rest }

/-! ### The Adler-32 accumulator -/

/-- 40_adler.md R61. -/
def Obligations.AdlerInitStartsAChecksum : Prop :=
  DecodesAs 0x01 0xFFFFFF00 (fun _ _ => .adlerInit)
  ∧ ∀ s : State, exec .adlerInit s =
      .next { s with regs := { s.regs with adlA := 1, adlB := 0 }, rsp := some ⟨0, 0x00000001⟩ }

/-- 40_adler.md R62: the byte loop in exact arithmetic, from any sums; the sums are the only registers written; no error of
any request changes them. -/
def Obligations.AdlerAccFoldsTheLanes : Prop :=
  DecodesAs 0x02 0xFFFFFC00 (fun cmd opnd => .adlerAcc (cmd.toNat / 256 + 1) opnd)
  ∧ (∀ (n : Nat) (w : Word) (s : State), 1 ≤ n → n ≤ 4 → ∃ a b : Half,
      exec (.adlerAcc n w) s =
        .next { s with regs := { s.regs with adlA := a, adlB := b }, rsp := some ⟨0, b ++ a⟩ }
      ∧ (a.toNat, b.toNat) =
        calculateFrom s.regs.adlA.toNat s.regs.adlB.toNat
          ((List.range n).map (fun k => w.extractLsb' (24 - 8 * k) 8))
      ∧ a.toNat < 65521 ∧ b.toNat < 65521)
  ∧ ∀ (i : Instr) (s : State), ∃ (t : State) (p : Response), exec i s = .next t ∧ t.rsp = some p
      ∧ (p.err ≠ 0 → t.regs.adlA = s.regs.adlA ∧ t.regs.adlB = s.regs.adlB)

/-- 40_adler.md R63: for sums in range each `mod 65521` is one conditional subtraction on 17 bits, and nothing overflows. -/
def Obligations.ConditionalSubtractionSuffices : Prop :=
  ∀ (a b : Half) (byte : Byte), a.toNat < 65521 → b.toNat < 65521 →
    a.toNat + byte.toNat ≤ 65775
    ∧ b.toNat + (a.toNat + byte.toNat) % 65521 ≤ 131040
    ∧ foldByte (a.toNat, b.toNat) byte = ((byteStep17 a b byte).1.toNat, (byteStep17 a b byte).2.toNat)

/-- 40_adler.md R64: two ways of cutting the same bytes into ADLER_ACC requests leave the same registers. -/
def Obligations.ChunkingDoesNotMatter : Prop :=
  ∀ (s : State) (cs ds : List Chunk), (∀ c ∈ cs, c.WellFormed = true) → (∀ d ∈ ds, d.WellFormed = true) →
    chunkBytes cs = chunkBytes ds →
    (runRequests s (accRequests cs)).2.regs = (runRequests s (accRequests ds)).2.regs

/-- 40_adler.md R65: ADLER_INIT and then ADLER_ACC over the bytes of `D`, however cut, leave `ADLER = Calculate(D)`, from
any state and for any length; no other register changes. -/
def Obligations.AccumulatorComputesCalculate : Prop :=
  ∀ (s : State) (cs : List Chunk), (∀ c ∈ cs, c.WellFormed = true) → ∃ a b : Half,
    (runRequests s (encode .adlerInit :: accRequests cs)).2.regs = { s.regs with adlA := a, adlB := b }
    ∧ (b ++ a : Word).toNat = calculate (chunkBytes cs)

/-- 40_adler.md R66: after any request the sums depend on the request and the sums before it, not on any other register, on
the parameters or on the inputs to come. -/
def Obligations.SumsDependOnlyOnSums : Prop :=
  ∀ (i : Instr) (s t : State), s.regs.adlA = t.regs.adlA → s.regs.adlB = t.regs.adlB → ∃ s' t' : State,
    exec i s = .next s' ∧ exec i t = .next t' ∧ s'.regs.adlA = t'.regs.adlA ∧ s'.regs.adlB = t'.regs.adlB

/-- 20_memory.md R37, 30_encoding.md R51, R52: lanes n to 3 of ADLER_ACC and the operand word of a format that ignores it
have no effect. -/
def Obligations.IgnoredOperandBitsHaveNoEffect : Prop :=
  (∀ (n : Nat) (w w' : Word) (s : State), 1 ≤ n → n ≤ 4 →
    (∀ k < n, w.extractLsb' (24 - 8 * k) 8 = w'.extractLsb' (24 - 8 * k) 8) →
    exec (.adlerAcc n w) s = exec (.adlerAcc n w') s)
  ∧ (∀ (cmd opnd opnd' : Word) (s : State),
    (∀ o : Op, Op.usesOperand o = true → ¬ Op.Matches o cmd) →
    step (s.offer (.request ⟨cmd, opnd⟩)) = step (s.offer (.request ⟨cmd, opnd'⟩)))

/-! ### The encode side -/

/-- 41_encode.md R67: success for the three modes, with what EFFORT then is; InvalidArgument for mode 3, with no register
but the error record changed. -/
def Obligations.EncBeginStartsOrRefuses : Prop :=
  DecodesAs 0x03 0xFFFFFC00 (fun cmd _ => .encBegin (BitVec.ofNat 2 (cmd.toNat / 256)))
  ∧ (∀ (m : BitVec 2) (s : State), m ≠ 3 → ∃ t : State, exec (.encBegin m) s = .next t
      ∧ t = { s with
          regs := { s.regs with adlA := 1, adlB := 0, mode := m, encValid := true },
          rsp := some ⟨0, s.params.emitHeader.setWidth 32⟩ }
      ∧ t.regs.effort = decide (m ≠ 2) ∧ (outputs t.regs).effortO = decide (m ≠ 2))
  ∧ (∀ s : State, exec (.encBegin 3) s =
      .next { s with regs := { s.regs with errCode := 1, errSticky := true }, rsp := some ⟨1, 0⟩ })

/-- 41_encode.md R68. -/
def Obligations.HdrEmitReturnsTheHeader : Prop :=
  DecodesAs 0x04 0xFFFFFF00 (fun _ _ => .hdrEmit)
  ∧ ∀ s : State, exec .hdrEmit s = .next { s with rsp := some ⟨0, s.params.emitHeader.setWidth 32⟩ }

/-- 41_encode.md R70: the header HDR_MAKE returns, field by field (the places of the level hint and the check bits are the
spec's own general knowledge, log entry 9), and NotImplemented for FD = 1. -/
def Obligations.HdrMakeReturnsAValidHeader : Prop :=
  DecodesAs 0x05 0xFFFF0800
    (fun cmd _ => .hdrMake (BitVec.ofNat 4 (cmd.toNat / 2 ^ 12)) (BitVec.ofNat 2 (cmd.toNat / 2 ^ 8)) (cmd.getLsbD 10))
  ∧ (∀ (cinfo : BitVec 4) (flevel : BitVec 2) (s : State), ∃ h : Half,
      exec (.hdrMake cinfo flevel false) s = .next { s with rsp := some ⟨0, h.setWidth 32⟩ }
      ∧ h.extractLsb' 12 4 = cinfo ∧ h.extractLsb' 8 4 = 8 ∧ h.extractLsb' 6 2 = flevel ∧ h.getLsbD 5 = false
      ∧ h.toNat % 31 = 0 ∧ (h.extractLsb' 0 5).toNat ≤ 30)
  ∧ (∀ (cinfo : BitVec 4) (flevel : BitVec 2) (s : State), exec (.hdrMake cinfo flevel true) s =
      .next { s with regs := { s.regs with errCode := 3, errSticky := true }, rsp := some ⟨3, 0⟩ })

/-- 41_encode.md R71. -/
def Obligations.TrlPackReturnsTheTrailer : Prop :=
  DecodesAs 0x06 0xFFFFFF00 (fun _ _ => .trlPack)
  ∧ ∀ s : State, ∃ w : Word, exec .trlPack s = .next { s with rsp := some ⟨0, w⟩ }
      ∧ w = s.regs.adlB ++ s.regs.adlA
      ∧ w.extractLsb' 24 8 = s.regs.adlB.extractLsb' 8 8 ∧ w.extractLsb' 16 8 = s.regs.adlB.extractLsb' 0 8
      ∧ w.extractLsb' 8 8 = s.regs.adlA.extractLsb' 8 8 ∧ w.extractLsb' 0 8 = s.regs.adlA.extractLsb' 0 8

/-- 41_encode.md R72, 20_memory.md R36. -/
def Obligations.TrlByteReturnsOneTrailerByte : Prop :=
  DecodesAs 0x07 0xFFFFFC00 (fun cmd _ => .trlByte (BitVec.ofNat 2 (cmd.toNat / 256)))
  ∧ ∀ (k : BitVec 2) (s : State), exec (.trlByte k) s =
      .next { s with rsp := some ⟨0, BitVec.ofNat 32
        ((s.regs.adlB.toNat * 2 ^ 16 + s.regs.adlA.toNat) / 2 ^ (24 - 8 * k.toNat) % 256)⟩ }

/-- 41_encode.md R75, R69: no formatting request answers with a header that has FDICT set or breaks the header checks. -/
def Obligations.NoDictionaryHeaderIsMade : Prop :=
  ∀ (i : Instr) (s : State), s.params.WellFormed = true →
    i.op = .encBegin ∨ i.op = .hdrEmit ∨ i.op = .hdrMake → ∃ (t : State) (p : Response),
      exec i s = .next t ∧ t.rsp = some p ∧
      (p.err = 0 → p.data.getLsbD 5 = false ∧ p.data.extractLsb' 8 4 = 8 ∧ p.data.toNat % 31 = 0
        ∧ p.data.toNat < 2 ^ 16)

/-- 41_encode.md R73: the encode procedure gives `[CMF][FLG][payload][trailer]` with a valid header, the payload the engine
made at the effort the mode selects, and the big-endian checksum of the bytes; for mode 3 it gives nothing. That the engine is an argument is the
model's choice, log entry 12. -/
def Obligations.EncodeProcedureMakesTheFrame : Prop :=
  ∀ (s : State) (m : BitVec 2) (cs : List Chunk) (compress : List Byte → Bool → List Byte),
    (∀ c ∈ cs, c.WellFormed = true) → s.params.WellFormed = true →
    (m = 3 → (encodeProcedure s m cs compress).1 = none)
    ∧ (m ≠ 3 → ∃ cmf flg t0 t1 t2 t3 : Byte,
        (encodeProcedure s m cs compress).1 =
          some ([cmf, flg] ++ compress (chunkBytes cs) (decide (m ≠ 2)) ++ [t0, t1, t2, t3])
        ∧ cmf.toNat * 256 + flg.toNat = s.params.emitHeader.toNat
        ∧ cmf.toNat % 16 = 8 ∧ (cmf.toNat * 256 + flg.toNat) % 31 = 0 ∧ flg.getLsbD 5 = false
        ∧ ((t0.toNat * 256 + t1.toNat) * 256 + t2.toNat) * 256 + t3.toNat = calculate (chunkBytes cs))

/-- 41_encode.md R74: the four trailer bytes are the same for every mode, every engine and every instance. -/
def Obligations.TrailerIsTheSameForEveryMode : Prop :=
  ∀ (s s' : State) (m m' : BitVec 2) (cs cs' : List Chunk) (compress compress' : List Byte → Bool → List Byte),
    (∀ c ∈ cs, c.WellFormed = true) → (∀ c ∈ cs', c.WellFormed = true) → chunkBytes cs = chunkBytes cs' →
    m ≠ 3 → m' ≠ 3 → ∃ f f' : List Byte,
      (encodeProcedure s m cs compress).1 = some f ∧ (encodeProcedure s' m' cs' compress').1 = some f'
      ∧ f.drop (f.length - 4) = f'.drop (f'.length - 4)

/-! ### The decode side -/

/-- 42_decode.md R77. -/
def Obligations.HdrCheckOpensAHeaderContext : Prop :=
  DecodesAs 0x08 0xFF000000 (fun cmd _ => .hdrCheck (BitVec.ofNat 8 (cmd.toNat / 2 ^ 16)) (BitVec.ofNat 8 (cmd.toNat / 2 ^ 8)))
  ∧ (∀ (cmf flg : Byte) (s : State), HeaderPasses s.params cmf flg → ∃ t : State,
      exec (.hdrCheck cmf flg) s = .next t
      ∧ t = { s with
          regs := { s.regs with
            hdr := cmf ++ flg, hdrValid := true, frameValid := false, trlDone := false, trlMatch := false },
          rsp := some ⟨0, t.regs.status⟩ }
      ∧ t.regs.status.getLsbD 1 = flg.getLsbD 5
      ∧ t.regs.status.getLsbD 2 = decide (cmf.toNat % 16 = 8)
      ∧ t.regs.status.getLsbD 3 = decide ((cmf.toNat * 256 + flg.toNat) % 31 = 0))
  ∧ (∀ (cmf flg : Byte) (s : State), ¬ HeaderPasses s.params cmf flg → exec (.hdrCheck cmf flg) s =
      .next { s with
        regs := { s.regs with
          errCode := 2, errSticky := true, hdrValid := false, frameValid := false, trlDone := false, trlMatch := false },
        rsp := some ⟨2, 0⟩ })

/-- 42_decode.md R78, with the layout READ then gives (10_state.md R22). -/
def Obligations.FrameParseFixesTheLayout : Prop :=
  DecodesAs 0x09 0xFF000000
    (fun cmd opnd => .frameParse (BitVec.ofNat 8 (cmd.toNat / 2 ^ 16)) (BitVec.ofNat 8 (cmd.toNat / 2 ^ 8)) opnd)
  ∧ (∀ (cmf flg : Byte) (len : Word) (s : State),
      HeaderPasses s.params cmf flg → leastFrame flg ≤ len.toNat → ∃ (t : State) (pre : Word),
      exec (.frameParse cmf flg len) s = .next t
      ∧ pre.toNat = 2 + 4 * (flg.getLsbD 5).toNat
      ∧ t = { s with
          regs := { s.regs with
            hdr := cmf ++ flg, hdrValid := true, frameLen := len, frameValid := true, trlDone := false, trlMatch := false },
          rsp := some ⟨0, pre⟩ }
      ∧ t.regs.payloadOff = pre
      ∧ t.regs.trailerOff.toNat = len.toNat - 4
      ∧ t.regs.payloadLen.toNat = len.toNat - pre.toNat - 4)
  ∧ (∀ (cmf flg : Byte) (len : Word) (s : State),
      ¬ HeaderPasses s.params cmf flg ∨ len.toNat < leastFrame flg → exec (.frameParse cmf flg len) s =
      .next { s with
        regs := { s.regs with
          errCode := 2, errSticky := true, hdrValid := false, frameValid := false, trlDone := false, trlMatch := false },
        rsp := some ⟨2, 0⟩ })

/-- 10_state.md R22: the derived layout values of every state; in a legal state with a frame no subtraction goes below zero,
and prefix, payload and trailer fill the frame. -/
def Obligations.LayoutPartitionsTheFrame : Prop :=
  ∀ s : State,
    s.regs.payloadOff = (if s.regs.frameValid then BitVec.ofNat 32 (2 + 4 * (s.regs.hdr.getLsbD 5).toNat) else 0)
    ∧ s.regs.trailerOff = (if s.regs.frameValid then s.regs.frameLen - 4 else 0)
    ∧ s.regs.payloadLen = (if s.regs.frameValid then s.regs.trailerOff - s.regs.payloadOff else 0)
    ∧ (s.Inv → s.regs.frameValid = true →
      4 ≤ s.regs.frameLen.toNat ∧ s.regs.trailerOff.toNat = s.regs.frameLen.toNat - 4
      ∧ s.regs.payloadOff.toNat ≤ s.regs.trailerOff.toNat
      ∧ s.regs.payloadOff.toNat + s.regs.payloadLen.toNat = s.regs.trailerOff.toNat
      ∧ s.regs.trailerOff.toNat + 4 = s.regs.frameLen.toNat)

/-- 42_decode.md R84: two headers that pass and agree in FLG[5] give the same response and the same layout. -/
def Obligations.LayoutDependsOnlyOnFdict : Prop :=
  ∀ (s : State) (cmf flg cmf' flg' : Byte) (len : Word),
    HeaderPasses s.params cmf flg → HeaderPasses s.params cmf' flg' → flg.getLsbD 5 = flg'.getLsbD 5 →
    ∃ t t' : State, exec (.frameParse cmf flg len) s = .next t ∧ exec (.frameParse cmf' flg' len) s = .next t'
      ∧ t.rsp = t'.rsp ∧ t.regs.frameValid = t'.regs.frameValid
      ∧ t.regs.payloadOff = t'.regs.payloadOff ∧ t.regs.payloadLen = t'.regs.payloadLen
      ∧ t.regs.trailerOff = t'.regs.trailerOff

/-- 42_decode.md R82: the comparison, the error when it is enforced, and that a half of 65521 or more never matches. -/
def Obligations.TrlCheckComparesTheTrailer : Prop :=
  DecodesAs 0x0A 0xFFFFFF00 (fun _ opnd => .trlCheck opnd)
  ∧ (∀ (t : Word) (s : State), t = s.regs.adlB ++ s.regs.adlA → exec (.trlCheck t) s =
      .next { s with regs := { s.regs with trlDone := true, trlMatch := true }, rsp := some ⟨0, 1⟩ })
  ∧ (∀ (t : Word) (s : State), t ≠ s.regs.adlB ++ s.regs.adlA → s.params.verifyTrailer = false → exec (.trlCheck t) s =
      .next { s with regs := { s.regs with trlDone := true, trlMatch := false }, rsp := some ⟨0, 0⟩ })
  ∧ (∀ (t : Word) (s : State), t ≠ s.regs.adlB ++ s.regs.adlA → s.params.verifyTrailer = true → exec (.trlCheck t) s =
      .next { s with
        regs := { s.regs with
          errCode := 4, errSticky := true, hdrValid := false, frameValid := false, trlDone := false, trlMatch := false },
        rsp := some ⟨4, 0⟩ })
  ∧ (∀ (t : Word) (s : State), s.Inv → 65521 ≤ t.toNat % 2 ^ 16 ∨ 65521 ≤ t.toNat / 2 ^ 16 →
      t ≠ s.regs.adlB ++ s.regs.adlA)

/-- 41_encode.md R73 and 42_decode.md R83 together, DOC0's round trip: for every byte sequence, mode, instance and way of
cutting the bytes, the decode procedure on the frame the encode procedure makes returns the bytes, whatever the decoder's
parameters and the host's choices, if the engine's decompressor undoes its compressor and `LEN_WIDTH` holds the frame's
length (92_eei_decisions.md D26). That the engine is an argument is the model's choice, log entry 12. -/
def Obligations.DecodeOfEncodeReturnsTheBytes : Prop :=
  ∀ (s s' : State) (m : BitVec 2) (cs : List Chunk) (compress : List Byte → Bool → List Byte)
    (decompress : List Byte → EngineResult) (chop : List Byte → List Chunk) (host : HostChoices),
    m ≠ 3 → s.params.WellFormed = true → (∀ c ∈ cs, c.WellFormed = true) →
    (∀ d, (∀ c ∈ chop d, c.WellFormed = true) ∧ chunkBytes (chop d) = d) →
    (∀ d e, decompress (compress d e) = .done d) →
    (compress (chunkBytes cs) (decide (m ≠ 2))).length + 6 < 2 ^ 32 →
    ∃ f : List Byte, (encodeProcedure s m cs compress).1 = some f
      ∧ (decodeProcedure s' f decompress chop host).1 = .ok (chunkBytes cs)

/-- 42_decode.md R83, steps 1, 2 and 5: where the decode procedure returns no output, and the error it reports:
MalformedInput for a short frame, for a header that fails, and for a failure of the engine, which leaves the error record
alone (60_exceptions.md R106); ChecksumMismatch for a wrong trailer with `VERIFY_TRAILER = 1`. The engine as an argument, and
that a frame of 2^32 bytes or more (92_eei_decisions.md D26) is turned away before any request, are the model's choices,
log entry 12. -/
def Obligations.DecodeProcedureRejects : Prop :=
  ∀ (s : State) (f : List Byte) (decompress : List Byte → EngineResult) (chop : List Byte → List Chunk) (host : HostChoices),
    (∀ d, (∀ c ∈ chop d, c.WellFormed = true) ∧ chunkBytes (chop d) = d) →
    (2 ^ 32 ≤ f.length → decodeProcedure s f decompress chop host = (.error .tooLong, s))
    ∧ (f.length < 6 ∨ (f.length < 10 ∧ (f.getD 1 0).getLsbD 5 = true) →
      (decodeProcedure s f decompress chop host).1 = .error (.reported .malformedInput))
    ∧ (6 ≤ f.length → f.length < 2 ^ 32 → ¬ HeaderPasses s.params (f.getD 0 0) (f.getD 1 0) →
      (decodeProcedure s f decompress chop host).1 = .error (.reported .malformedInput))
    ∧ (∀ (pre partialOutput : List Byte) (t0 t1 t2 t3 : Byte), FrameAccepted s.params f → f = pre ++ [t0, t1, t2, t3] →
      decompress (pre.drop (2 + 4 * ((f.getD 1 0).getLsbD 5).toNat)) = .failed partialOutput →
      (decodeProcedure s f decompress chop host).1 = .error (.reported .malformedInput)
      ∧ (decodeProcedure s f decompress chop host).2.regs.errCode = s.regs.errCode
      ∧ (decodeProcedure s f decompress chop host).2.regs.errSticky = s.regs.errSticky)
    ∧ (∀ (pre d : List Byte) (t0 t1 t2 t3 : Byte), s.params.verifyTrailer = true → f = pre ++ [t0, t1, t2, t3] →
      decompress (pre.drop (2 + 4 * ((f.getD 1 0).getLsbD 5).toNat)) = .done d →
      trailerNat t0 t1 t2 t3 ≠ calculate d →
      ∃ e : HostError, (decodeProcedure s f decompress chop host).1 = .error e
        ∧ (FrameAccepted s.params f → e = .reported .checksumMismatch))

/-! ### Control and register access -/

/-- 43_control.md R86. -/
def Obligations.NopChangesNothing : Prop :=
  DecodesAs 0x00 0xFFFFFF00 (fun _ _ => .nop) ∧ ∀ s : State, exec .nop s = .next { s with rsp := some ⟨0, 0⟩ }

/-- 43_control.md R87, 10_state.md R28. -/
def Obligations.ReadReturnsTheMap : Prop :=
  DecodesAs 0x0B 0xFFFFF800 (fun cmd _ => .read (ReadSel.ofBits (BitVec.ofNat 3 (cmd.toNat / 256))))
  ∧ (List.map ReadSel.ofBits [0, 1, 2, 3, 4, 5, 6, 7] =
      [.adler, .status, .header, .frameLen, .payloadOff, .payloadLen, .trailerOff, .config])
  ∧ ∀ (sel : ReadSel) (s : State), ∃ w : Word, exec (.read sel) s = .next { s with rsp := some ⟨0, w⟩ }
      ∧ (sel = .adler → w = s.regs.adlB ++ s.regs.adlA)
      ∧ (sel = .status → w = s.regs.status)
      ∧ (sel = .header → w.toNat = s.regs.hdr.toNat)
      ∧ (sel = .frameLen → w = s.regs.frameLen)
      ∧ (sel = .payloadOff → w = if s.regs.frameValid then (if s.regs.hdr.getLsbD 5 then 6 else 2) else 0)
      ∧ (sel = .payloadLen → w = if s.regs.frameValid then s.regs.trailerOff - s.regs.payloadOff else 0)
      ∧ (sel = .trailerOff → w = if s.regs.frameValid then s.regs.frameLen - 4 else 0)
      ∧ (sel = .config → w = s.params.emitHeader ++ 0#14 ++ BitVec.ofBool s.params.verifyTrailer
          ++ BitVec.ofBool s.params.strictHeader)

/-- 20_memory.md R41: READ and HDR_EMIT, repeated any number of times, give the same response and change no register. -/
def Obligations.ReadsHaveNoSideEffect : Prop :=
  ∀ (s : State) (sel : ReadSel) (k : Nat),
    (runRequests s (List.replicate k (encode (.read sel)))).1 = List.replicate k ⟨0, readMap s.params s.regs sel⟩
    ∧ (runRequests s (List.replicate k (encode (.read sel)))).2.regs = s.regs
    ∧ (runRequests s (List.replicate k (encode .hdrEmit))).1 = List.replicate k ⟨0, s.params.emitHeader.setWidth 32⟩
    ∧ (runRequests s (List.replicate k (encode .hdrEmit))).2.regs = s.regs

/-- 43_control.md R88. -/
def Obligations.ClrErrClearsTheRecord : Prop :=
  DecodesAs 0x0C 0xFFFFFF00 (fun _ _ => .clrErr)
  ∧ ∀ s : State, exec .clrErr s =
      .next { s with regs := { s.regs with errCode := 0, errSticky := false }, rsp := some ⟨0, 0⟩ }

/-- 43_control.md R89. -/
def Obligations.SoftResetRestoresEveryRegister : Prop :=
  DecodesAs 0x0D 0xFFFFFF00 (fun _ _ => .softReset)
  ∧ ∀ s : State, exec .softReset s =
      .next { s with
        regs := { adlA := 1, adlB := 0, hdr := 0, hdrValid := false, frameValid := false, frameLen := 0, trlDone := false,
                  trlMatch := false, encValid := false, mode := 0, errCode := 0, errSticky := false },
        rsp := some ⟨0, 0⟩ }

/-- 10_state.md R26, R20, R24: the STATUS word bit by bit. -/
def Obligations.StatusBits : Prop :=
  ∀ r : Regs,
    r.status.getLsbD 0 = r.hdrValid
    ∧ r.status.getLsbD 1 = (r.hdrValid && r.hdr.getLsbD 5)
    ∧ r.status.getLsbD 2 = (r.hdrValid && decide (r.hdr.extractLsb' 8 4 = 8))
    ∧ r.status.getLsbD 3 = (r.hdrValid && decide (r.hdr.toNat % 31 = 0))
    ∧ r.status.getLsbD 4 = r.frameValid
    ∧ r.status.getLsbD 5 = r.trlDone
    ∧ r.status.getLsbD 6 = r.trlMatch
    ∧ r.status.getLsbD 7 = r.encValid
    ∧ r.status.getLsbD 8 = (r.encValid && decide (r.mode ≠ 2))
    ∧ r.status.extractLsb' 9 2 = r.mode
    ∧ r.status.getLsbD 11 = false
    ∧ r.status.extractLsb' 12 3 = r.errCode
    ∧ r.status.getLsbD 15 = r.errSticky
    ∧ r.status.extractLsb' 16 16 = 0

/-- 10_state.md R27: the CONFIG word, READ selector 7, and that no step changes it. -/
def Obligations.ConfigIsConstant : Prop :=
  (∀ s : State, ∃ w : Word, exec (.read (ReadSel.ofBits 7)) s = .next { s with rsp := some ⟨0, w⟩ }
    ∧ w.getLsbD 0 = s.params.strictHeader ∧ w.getLsbD 1 = s.params.verifyTrailer
    ∧ w.extractLsb' 2 14 = 0 ∧ w.extractLsb' 16 16 = s.params.emitHeader)
  ∧ ∀ s : State, ∃ t : State, step s = .next t
    ∧ t.params = s.params ∧ readMap t.params t.regs .config = readMap s.params s.regs .config

/-- 30_encoding.md R48. -/
def Obligations.StatusOutputs : Prop :=
  ∀ r : Regs, (outputs r).effortO = (r.encValid && decide (r.mode ≠ 2)) ∧ (outputs r).encValidO = r.encValid
    ∧ (outputs r).frameValidO = r.frameValid ∧ (outputs r).errO = r.errSticky

/-! ### Reset -/

/-- 10_state.md R32: after either reset every register holds its reset value, ADLER is 1, STATUS and every other READ value
but CONFIG is 0, and CONFIG is as before. -/
def Obligations.ResetValues : Prop :=
  ∀ (s : State) (rest : List HostInput) (x : HostInput), s.inputs = x :: rest →
    (∃ presented : Option Request, x = .reset presented) ∨ (∃ r : Request, x = .requestThenReset r)
      ∨ (∃ opnd : Word, x = .request ⟨0x0000000D, opnd⟩) →
    ∃ t : State, step s = .next t
    ∧ t.regs.adlA = 1 ∧ t.regs.adlB = 0 ∧ t.regs.hdr = 0 ∧ t.regs.hdrValid = false ∧ t.regs.frameValid = false
    ∧ t.regs.frameLen = 0 ∧ t.regs.trlDone = false ∧ t.regs.trlMatch = false ∧ t.regs.encValid = false
    ∧ t.regs.mode = 0 ∧ t.regs.errCode = 0 ∧ t.regs.errSticky = false
    ∧ readMap t.params t.regs .adler = 1
    ∧ (∀ sel : ReadSel, sel ≠ .adler → sel ≠ .config → readMap t.params t.regs sel = 0)
    ∧ readMap t.params t.regs .config = readMap s.params s.regs .config

/-- 70_reset_and_hazards.md R109: after SOFT_RESET and after hardware reset every later run gives the same responses and the
same registers; SOFT_RESET itself is answered. -/
def Obligations.SoftResetEqualsHardwareReset : Prop :=
  ∀ (s : State) (xs : List HostInput) (opnd : Word),
    (run s (.request ⟨0x0000000D, opnd⟩ :: xs)).1 = ⟨0, 0⟩ :: (run s (.reset none :: xs)).1
    ∧ (run s (.request ⟨0x0000000D, opnd⟩ :: xs)).2.regs = (run s (.reset none :: xs)).2.regs

/-! ### Errors -/

/-- 60_exceptions.md R96, R97: a request that ends in an error performs exactly these writes. -/
def Obligations.ErrorEffect : Prop :=
  ∀ (s : State) (r : Request) (rest : List HostInput), s.inputs = .request r :: rest →
    ∃ (t : State) (p : Response), step s = .next t ∧ t.rsp = some p ∧
      (p.err ≠ 0 → t = { s with inputs := rest, regs := afterError s.regs p.err, rsp := some ⟨p.err, 0⟩ })

/-- 60_exceptions.md R94: which requests raise which errors. -/
def Obligations.WhichRequestsRaiseWhichErrors : Prop :=
  (∀ (i : Instr) (s : State), ∃ (t : State) (p : Response),
    exec i s = .next t ∧ t.rsp = some p ∧ ErrorTable s i p.err)
  ∧ (∀ (s : State) (r : Request) (rest : List HostInput), s.inputs = .request r :: rest →
    (∀ o : Op, ¬ Op.Matches o r.cmd) → ∃ (t : State) (p : Response), step s = .next t ∧ t.rsp = some p ∧ p.err = 7)

/-- 60_exceptions.md R92, R95: every request reports exactly one code, never 5 or 6, and an error carries data 0. -/
def Obligations.ResponseCodes : Prop :=
  ∀ (s : State) (r : Request) (rest : List HostInput), s.inputs = .request r :: rest →
    ∃ (t : State) (p : Response), step s = .next t ∧ t.rsp = some p
      ∧ p.err ∈ [(0 : BitVec 3), 1, 2, 3, 4, 7] ∧ (p.err ≠ 0 → p.data = 0)

/-- 60_exceptions.md R98: who writes the error record, input by input, and that the record blocks nothing: with another
record in place the same step gives the same code and the same other registers. -/
def Obligations.ErrorRecord : Prop :=
  (∀ (s : State) (r : Request) (rest : List HostInput), s.inputs = .request r :: rest →
    ∃ (t : State) (p : Response), step s = .next t ∧ t.rsp = some p
    ∧ (p.err ≠ 0 → t.regs.errCode = p.err ∧ t.regs.errSticky = true)
    ∧ (decode r = .ok .clrErr ∨ decode r = .ok .softReset → t.regs.errCode = 0 ∧ t.regs.errSticky = false)
    ∧ (p.err = 0 → decode r ≠ .ok .clrErr → decode r ≠ .ok .softReset →
        t.regs.errCode = s.regs.errCode ∧ t.regs.errSticky = s.regs.errSticky))
  ∧ (∀ (s : State) (x : HostInput) (rest : List HostInput), s.inputs = x :: rest → (∀ r : Request, x ≠ .request r) →
    ∃ t : State, step s = .next t
    ∧ (x = .idle → t.regs.errCode = s.regs.errCode ∧ t.regs.errSticky = s.regs.errSticky)
    ∧ (x ≠ .idle → t.regs.errCode = 0 ∧ t.regs.errSticky = false))
  ∧ (∀ (s : State) (code : BitVec 3) (sticky : Bool), ∃ t t' : State,
    step s = .next t ∧ step { s with regs := { s.regs with errCode := code, errSticky := sticky } } = .next t'
    ∧ t.rsp.map Response.err = t'.rsp.map Response.err
    ∧ { t'.regs with errCode := t.regs.errCode, errSticky := t.regs.errSticky } = t.regs)

/-! ### The whole machine -/

/-- 10_state.md R15 to R25: the reset state of every instance is legal. -/
def Obligations.ResetIsLegal : Prop :=
  ∀ (p : Params) (inputs : List HostInput), p.WellFormed = true → State.Inv { State.resetOf p with inputs := inputs }

/-- 10_state.md R15, R18, R20, R21, R23, R25: every step from a legal state, whatever the host does, ends in a legal
state. -/
def Obligations.StepKeepsLegal : Prop :=
  ∀ s t : State, s.Inv → step s = .next t → t.Inv

/-- 10_state.md R18: in every state a run of any instance reaches, both sums are below 65521, and it steps on. -/
def Obligations.SumsStayBelowTheModulus : Prop :=
  ∀ s : State, Reachable s → s.regs.adlA.toNat < 65521 ∧ s.regs.adlB.toNat < 65521 ∧ ∃ t : State, step s = .next t

/-- 10_state.md R17: who writes the sums, and that none of them loads an arbitrary value. -/
def Obligations.WritersOfTheSums : Prop :=
  ∀ (s : State) (x : HostInput) (rest : List HostInput), s.inputs = x :: rest → ∃ t : State, step s = .next t ∧
    ((t.regs.adlA = s.regs.adlA ∧ t.regs.adlB = s.regs.adlB)
    ∨ (t.regs.adlA = 1 ∧ t.regs.adlB = 0 ∧
        ((∃ presented : Option Request, x = .reset presented) ∨ (∃ r : Request, x = .requestThenReset r)
        ∨ ∃ (r : Request) (i : Instr), x = .request r ∧ decode r = .ok i
          ∧ (i = .adlerInit ∨ i = .softReset ∨ ∃ m : BitVec 2, m ≠ 3 ∧ i = .encBegin m)))
    ∨ (∃ (r : Request) (n : Nat) (w : Word), x = .request r ∧ decode r = .ok (.adlerAcc n w)
        ∧ (t.regs.adlA.toNat, t.regs.adlB.toNat) =
          calculateFrom s.regs.adlA.toNat s.regs.adlB.toNat (lanes w n)))

/-- 10_state.md R15, the "written by" column: a register outside a request's rows keeps its value. -/
def Obligations.RegistersKeepTheirWriters : Prop :=
  ∀ (i : Instr) (s : State), ∃ (t : State) (p : Response), exec i s = .next t ∧ t.rsp = some p
    ∧ (i.op ∉ [Op.adlerInit, .adlerAcc, .encBegin, .softReset] →
        t.regs.adlA = s.regs.adlA ∧ t.regs.adlB = s.regs.adlB)
    ∧ (i.op ∉ [Op.hdrCheck, .frameParse, .softReset] → t.regs.hdr = s.regs.hdr)
    ∧ (i.op ∉ [Op.hdrCheck, .frameParse, .softReset] → p.err ≠ 2 → p.err ≠ 4 →
        t.regs.hdrValid = s.regs.hdrValid ∧ t.regs.frameValid = s.regs.frameValid)
    ∧ (i.op ∉ [Op.frameParse, .softReset] → t.regs.frameLen = s.regs.frameLen)
    ∧ (i.op ∉ [Op.trlCheck, .hdrCheck, .frameParse, .softReset] → p.err ≠ 2 → p.err ≠ 4 →
        t.regs.trlDone = s.regs.trlDone ∧ t.regs.trlMatch = s.regs.trlMatch)
    ∧ (i.op ∉ [Op.encBegin, .softReset] → t.regs.encValid = s.regs.encValid ∧ t.regs.mode = s.regs.mode)

/-- 60_exceptions.md R103: `ZFRAME_BASE` is read by no rule. -/
def Obligations.BaseAddressIsReadByNoRule : Prop :=
  ∀ (s : State) (base : Option Nat), ∃ t : State, step s = .next t
    ∧ step { s with params := { s.params with zframeBase := base } } =
      .next { t with params := { t.params with zframeBase := base } }

/-- 60_exceptions.md R104: a step of one instance leaves every other instance as it was, and steps of two instances
commute. -/
def Obligations.InstancesAreIndependent : Prop :=
  ∀ (p : Platform) (j k : Nat), j ≠ k →
    (p.stepAt k).instances[j]? = p.instances[j]? ∧ (p.stepAt k).stepAt j = (p.stepAt j).stepAt k

/-- 42_decode.md R83, steps 3 to 5: on an accepted frame that the engine decompresses to `d`, the decode procedure returns `d`
unless the trailer is wrong and `VERIFY_TRAILER = 1`; with `VERIFY_TRAILER = 0` a host that stops at step 3 leaves the sums
and records no trailer result; a host that goes on, or must, reports the comparison in TRL_MATCH. The engine and the host's
choices are arguments, log entry 12. -/
def Obligations.DecodeProcedureReturns : Prop :=
  ∀ (s : State) (f pre d : List Byte) (t0 t1 t2 t3 : Byte) (decompress : List Byte → EngineResult)
    (chop : List Byte → List Chunk) (host : HostChoices),
    (∀ d, (∀ c ∈ chop d, c.WellFormed = true) ∧ chunkBytes (chop d) = d) →
    FrameAccepted s.params f → f = pre ++ [t0, t1, t2, t3] →
    decompress (pre.drop (2 + 4 * ((f.getD 1 0).getLsbD 5).toNat)) = .done d →
    s.params.verifyTrailer = false ∨ trailerNat t0 t1 t2 t3 = calculate d → ∃ t : State,
    decodeProcedure s f decompress chop host = (.ok d, t)
    ∧ t.regs.hdrValid = true ∧ t.regs.frameValid = true
    ∧ (s.params.verifyTrailer = false → host.stopEarly = true →
      t.regs.adlA = s.regs.adlA ∧ t.regs.adlB = s.regs.adlB ∧ t.regs.trlDone = false ∧ t.regs.trlMatch = false)
    ∧ (s.params.verifyTrailer = true ∨ host.stopEarly = false →
      t.regs.trlDone = true ∧ (t.regs.trlMatch = true ↔ trailerNat t0 t1 t2 t3 = calculate d))
end

