-- ==== Sys2Proof/Laws/State.lean ====
section
/-! SUPPORT. One lemma per field of State for each shared update: what the update leaves in the field. -/

namespace Sys2Proof.Machine.State

@[simp] theorem respond_regs (s : State) (v : Word) :
    (s.respond v).regs = s.regs := rfl
@[simp] theorem respond_params (s : State) (v : Word) : (s.respond v).params = s.params := rfl
@[simp] theorem respond_inputs (s : State) (v : Word) : (s.respond v).inputs = s.inputs := rfl
@[simp] theorem respond_rsp (s : State) (v : Word) : (s.respond v).rsp = some ⟨0, v⟩ := rfl

@[simp] theorem dropFrame_regs (s : State) :
    s.dropFrame.regs = { s.regs with hdrValid := false, frameValid := false, trlDone := false, trlMatch := false } := rfl
@[simp] theorem dropFrame_params (s : State) : s.dropFrame.params = s.params := rfl
@[simp] theorem dropFrame_inputs (s : State) : s.dropFrame.inputs = s.inputs := rfl
@[simp] theorem dropFrame_rsp (s : State) : s.dropFrame.rsp = s.rsp := rfl

@[simp] theorem recordError_regs (s : State) (e : Err) :
    (s.recordError e).regs = { s.regs with errCode := e.code, errSticky := true } := rfl
@[simp] theorem recordError_params (s : State) (e : Err) : (s.recordError e).params = s.params := rfl
@[simp] theorem recordError_inputs (s : State) (e : Err) : (s.recordError e).inputs = s.inputs := rfl
@[simp] theorem recordError_rsp (s : State) (e : Err) : (s.recordError e).rsp = s.rsp := rfl

@[simp] theorem setSums_regs (s : State) (a b : Half) :
    (s.setSums a b).regs = { s.regs with adlA := a, adlB := b } := rfl
@[simp] theorem setSums_params (s : State) (a b : Half) : (s.setSums a b).params = s.params := rfl
@[simp] theorem setSums_inputs (s : State) (a b : Half) : (s.setSums a b).inputs = s.inputs := rfl
@[simp] theorem setSums_rsp (s : State) (a b : Half) : (s.setSums a b).rsp = s.rsp := rfl

@[simp] theorem startSums_regs (s : State) :
    s.startSums.regs = { s.regs with adlA := 1, adlB := 0 } := rfl
@[simp] theorem startSums_params (s : State) : s.startSums.params = s.params := rfl
@[simp] theorem startSums_inputs (s : State) : s.startSums.inputs = s.inputs := rfl
@[simp] theorem startSums_rsp (s : State) : s.startSums.rsp = s.rsp := rfl

@[simp] theorem selectMode_regs (s : State) (m : BitVec 2) :
    (s.selectMode m).regs = { s.regs with mode := m, encValid := true } := rfl
@[simp] theorem selectMode_params (s : State) (m : BitVec 2) : (s.selectMode m).params = s.params := rfl
@[simp] theorem selectMode_inputs (s : State) (m : BitVec 2) : (s.selectMode m).inputs = s.inputs := rfl
@[simp] theorem selectMode_rsp (s : State) (m : BitVec 2) : (s.selectMode m).rsp = s.rsp := rfl

@[simp] theorem openHeader_regs (s : State) (h : Half) :
    (s.openHeader h).regs = { s.regs with hdr := h, hdrValid := true, trlDone := false, trlMatch := false } := rfl
@[simp] theorem openHeader_params (s : State) (h : Half) : (s.openHeader h).params = s.params := rfl
@[simp] theorem openHeader_inputs (s : State) (h : Half) : (s.openHeader h).inputs = s.inputs := rfl
@[simp] theorem openHeader_rsp (s : State) (h : Half) : (s.openHeader h).rsp = s.rsp := rfl

@[simp] theorem closeFrame_regs (s : State) :
    s.closeFrame.regs = { s.regs with frameValid := false } := rfl
@[simp] theorem closeFrame_params (s : State) : s.closeFrame.params = s.params := rfl
@[simp] theorem closeFrame_inputs (s : State) : s.closeFrame.inputs = s.inputs := rfl
@[simp] theorem closeFrame_rsp (s : State) : s.closeFrame.rsp = s.rsp := rfl

@[simp] theorem openFrame_regs (s : State) (len : Word) :
    (s.openFrame len).regs = { s.regs with frameLen := len, frameValid := true } := rfl
@[simp] theorem openFrame_params (s : State) (len : Word) : (s.openFrame len).params = s.params := rfl
@[simp] theorem openFrame_inputs (s : State) (len : Word) : (s.openFrame len).inputs = s.inputs := rfl
@[simp] theorem openFrame_rsp (s : State) (len : Word) : (s.openFrame len).rsp = s.rsp := rfl

@[simp] theorem recordTrailer_regs (s : State) (m : Bool) :
    (s.recordTrailer m).regs = { s.regs with trlDone := true, trlMatch := m } := rfl
@[simp] theorem recordTrailer_params (s : State) (m : Bool) : (s.recordTrailer m).params = s.params := rfl
@[simp] theorem recordTrailer_inputs (s : State) (m : Bool) : (s.recordTrailer m).inputs = s.inputs := rfl
@[simp] theorem recordTrailer_rsp (s : State) (m : Bool) : (s.recordTrailer m).rsp = s.rsp := rfl

@[simp] theorem clearError_regs (s : State) :
    s.clearError.regs = { s.regs with errCode := 0, errSticky := false } := rfl
@[simp] theorem clearError_params (s : State) : s.clearError.params = s.params := rfl
@[simp] theorem clearError_inputs (s : State) : s.clearError.inputs = s.inputs := rfl
@[simp] theorem clearError_rsp (s : State) : s.clearError.rsp = s.rsp := rfl

@[simp] theorem resetRegs_regs (s : State) :
    s.resetRegs.regs = Regs.reset := rfl
@[simp] theorem resetRegs_params (s : State) : s.resetRegs.params = s.params := rfl
@[simp] theorem resetRegs_inputs (s : State) : s.resetRegs.inputs = s.inputs := rfl
@[simp] theorem resetRegs_rsp (s : State) : s.resetRegs.rsp = s.rsp := rfl

@[simp] theorem hardReset_regs (s : State) :
    s.hardReset.regs = Regs.reset := rfl
@[simp] theorem hardReset_params (s : State) : s.hardReset.params = s.params := rfl
@[simp] theorem hardReset_inputs (s : State) : s.hardReset.inputs = s.inputs := rfl
@[simp] theorem hardReset_rsp (s : State) : s.hardReset.rsp = none := rfl

@[simp] theorem idleEdge_regs (s : State) :
    s.idleEdge.regs = s.regs := rfl
@[simp] theorem idleEdge_params (s : State) : s.idleEdge.params = s.params := rfl
@[simp] theorem idleEdge_inputs (s : State) : s.idleEdge.inputs = s.inputs := rfl
@[simp] theorem idleEdge_rsp (s : State) : s.idleEdge.rsp = none := rfl

end Sys2Proof.Machine.State
end

