-- ==== Sys2Proof/Laws/Ops.lean ====
section
/-! SUPPORT. What each shared operation can do, said once: the error effect, the port, one step. -/

namespace Sys2Proof.Machine

theorem Err.code_ne_zero (e : Err) : e.code ≠ 0 := by
  cases e <;> decide

/-- An error is read back from its code. -/
@[simp] theorem Err.ofCode_code (e : Err) : Err.ofCode e.code = some e := by
  cases e <;> rfl

/-- The code of success stands for no error. -/
@[simp] theorem Err.ofCode_zero : Err.ofCode 0#3 = none := rfl

/-- The frame-class errors are those with codes 2 and 4. -/
theorem Err.frameClass_iff (e : Err) : e.frameClass = true ↔ e.code = 2 ∨ e.code = 4 := by
  cases e <;> decide

/-- The whole effect of an error, in the words of `afterError`. -/
theorem State.raise_eq (s : State) (e : Err) :
    s.raise e = { s with regs := afterError s.regs e.code, rsp := some ⟨e.code, 0⟩ } := by
  cases e <;> rfl

@[simp] theorem State.raise_params (s : State) (e : Err) : (s.raise e).params = s.params := by
  cases e <;> rfl

@[simp] theorem State.raise_inputs (s : State) (e : Err) : (s.raise e).inputs = s.inputs := by
  cases e <;> rfl

@[simp] theorem State.raise_rsp (s : State) (e : Err) : (s.raise e).rsp = some ⟨e.code, 0⟩ := by
  cases e <;> rfl

@[simp] theorem State.raise_regs (s : State) (e : Err) : (s.raise e).regs = afterError s.regs e.code := by
  cases e <;> rfl

/-- A step takes the next input. -/
theorem step_of_inputs {s : State} {x : HostInput} {rest : List HostInput} (h : s.inputs = x :: rest) :
    step s = takeInput x { s with inputs := rest } := by
  simp [step, State.nextInput, h]

/-- A step with nothing presented is an idle edge. -/
theorem step_of_no_inputs {s : State} (h : s.inputs = []) : step s = .next s.idleEdge := by
  simp [step, State.nextInput, h, takeInput]

/-- What the host offers next is what the step takes. -/
@[simp] theorem step_offer (s : State) (x : HostInput) : step (s.offer x) = takeInput x s := by
  simp [step, State.nextInput, State.offer]

@[simp] theorem takeInput_idle (s : State) : takeInput .idle s = .next s.idleEdge := rfl

@[simp] theorem takeInput_request (s : State) (r : Request) : takeInput (.request r) s = serve r s := rfl

@[simp] theorem takeInput_reset (s : State) (o : Option Request) : takeInput (.reset o) s = .next s.hardReset := rfl

@[simp] theorem takeInput_requestThenReset (s : State) (r : Request) :
    takeInput (.requestThenReset r) s = .next s.hardReset := rfl

theorem serve_ok {r : Request} {i : Instr} (h : decode r = .ok i) (s : State) : serve r s = exec i s := by
  simp [serve, h]

theorem serve_error {r : Request} {e : DecodeError} (h : decode r = .error e) (s : State) :
    serve r s = .next (s.raise .illegalCommand) := by
  simp [serve, h]

/-- A run whose first input answers a next state goes on from that state. -/
theorem run_cons {s t : State} {x : HostInput} (h : takeInput x s = .next t) (xs : List HostInput) :
    run s (x :: xs) = (t.rsp.toList ++ (run t xs).1, (run t xs).2) := by
  simp [run, h]

@[simp] theorem run_nil (s : State) : run s [] = ([], s) := rfl

/-- A run that ends in a successful response answers that response. -/
theorem answerOf_ok {ps : List Response} {p : Response} (h : ps.getLast? = some p) (hp : p.err = 0) :
    answerOf ps = .ok p := by
  simp [answerOf, h, hp]

/-- A run that ends in an error's response answers that error. -/
theorem answerOf_error {ps : List Response} {p : Response} {e : Err} (h : ps.getLast? = some p) (hp : p.err = e.code) :
    answerOf ps = .error (.reported e) := by
  simp [answerOf, h, hp]

end Sys2Proof.Machine
end

