-- ==== Sys2Proof/Laws/Adler.lean ====
section
/-! SUPPORT. The running sums: byte steps compose, stay in range, and are the loop of DOC0 §4.1. -/

namespace Sys2Proof.Machine

theorem foldBytes_append (p : Nat × Nat) (xs ys : List Byte) :
    foldBytes p (xs ++ ys) = foldBytes (foldBytes p xs) ys := by
  simp [foldBytes]

/-- The model's loop is the loop of the source. -/
theorem foldBytes_eq_calculateFrom (a b : Nat) (xs : List Byte) :
    foldBytes (a, b) xs = calculateFrom a b xs := by
  induction xs generalizing a b with
  | nil => rfl
  | cons x xs ih => exact ih _ _

/-- One byte step leaves both sums below the modulus, whatever they were. -/
theorem foldByte_lt (p : Nat × Nat) (x : Byte) : (foldByte p x).1 < 65521 ∧ (foldByte p x).2 < 65521 :=
  ⟨Nat.mod_lt _ (by decide), Nat.mod_lt _ (by decide)⟩

/-- Sums below the modulus stay below it. -/
theorem foldBytes_lt {p : Nat × Nat} (h : p.1 < 65521 ∧ p.2 < 65521) (xs : List Byte) :
    (foldBytes p xs).1 < 65521 ∧ (foldBytes p xs).2 < 65521 := by
  induction xs generalizing p with
  | nil => exact h
  | cons x xs ih => exact ih (foldByte_lt p x)

/-- After one byte or more both sums are below the modulus. -/
theorem foldBytes_lt_of_ne_nil (p : Nat × Nat) {xs : List Byte} (h : xs ≠ []) :
    (foldBytes p xs).1 < 65521 ∧ (foldBytes p xs).2 < 65521 := by
  obtain ⟨x, ys, rfl⟩ := List.exists_cons_of_ne_nil h
  exact foldBytes_lt (foldByte_lt p x) ys

/-- The sums as numbers after an accumulation: no bit is lost by the 16-bit registers. -/
theorem State.accumulate_sums (s : State) (xs : List Byte) :
    ((s.accumulate xs).regs.adlA.toNat, (s.accumulate xs).regs.adlB.toNat) =
      foldBytes (s.regs.adlA.toNat, s.regs.adlB.toNat) xs := by
  rcases eq_or_ne xs [] with rfl | h
  · simp [accumulate, foldBytes]
  · obtain ⟨ha, hb⟩ := foldBytes_lt_of_ne_nil (s.regs.adlA.toNat, s.regs.adlB.toNat) h
    simp only [accumulate, setSums_regs, BitVec.toNat_ofNat]
    rw [Nat.mod_eq_of_lt (by omega), Nat.mod_eq_of_lt (by omega)]

/-- An accumulation writes the two sums and nothing else. -/
theorem State.accumulate_eq (s : State) (xs : List Byte) :
    s.accumulate xs = s.setSums (s.accumulate xs).regs.adlA (s.accumulate xs).regs.adlB := rfl

/-- Accumulating in two goes is accumulating in one. -/
theorem State.accumulate_append (s : State) (xs ys : List Byte) :
    (s.accumulate xs).accumulate ys = s.accumulate (xs ++ ys) := by
  have h := s.accumulate_sums xs
  simp only [Prod.ext_iff] at h
  have e : foldBytes ((s.accumulate xs).regs.adlA.toNat, (s.accumulate xs).regs.adlB.toNat) ys =
      foldBytes (s.regs.adlA.toNat, s.regs.adlB.toNat) (xs ++ ys) := by
    rw [foldBytes_append, ← s.accumulate_sums xs]
  rw [accumulate, e]
  rfl

theorem lanes_ne_nil {n : Nat} (w : Word) (h : 1 ≤ n) : lanes w n ≠ [] := by
  simp [lanes]
  omega

end Sys2Proof.Machine
end

