-- ==== Sys2Proof/Laws/Decode.lean ====
section
/-! SUPPORT. The opcode map: which row a command word selects, and what the decoder then answers (30_encoding.md R54, R55). -/

namespace Sys2Proof

/-- Every mask covers the opcode byte, and every pattern lies within its mask. -/
theorem opcodeMap_masks : ∀ row ∈ opcodeMap,
    row.mask &&& 0xFF = 0xFF ∧ row.pattern &&& 0xFF = row.pattern ∧ row.pattern.toNat < opcodeMap.length := by
  decide

/-- No two rows have one pattern. -/
theorem opcodeMap_patterns_distinct : ∀ row ∈ opcodeMap, ∀ row' ∈ opcodeMap, row.pattern = row'.pattern → row = row' := by
  decide

/-- A row that selects a command word has the word's opcode byte as its pattern. -/
theorem OpRow.pattern_of_selects {row : OpRow} (hrow : row ∈ opcodeMap) {cmd : Word} (h : row.selects cmd = true) :
    row.pattern = cmd &&& 0xFF := by
  obtain ⟨hm, hp, -⟩ := opcodeMap_masks row hrow
  have e : cmd &&& row.mask = row.pattern := by simpa [OpRow.selects] using h
  rw [← hp, ← e, BitVec.and_assoc, hm]

/-- At most one row selects a command word. -/
theorem OpRow.eq_of_selects {row row' : OpRow} (hrow : row ∈ opcodeMap) (hrow' : row' ∈ opcodeMap) {cmd : Word}
    (h : row.selects cmd = true) (h' : row'.selects cmd = true) : row = row' :=
  opcodeMap_patterns_distinct row hrow row' hrow' ((pattern_of_selects hrow h).trans (pattern_of_selects hrow' h').symm)

/-- The decoder answers with the row that selects the command word. -/
theorem decode_of_selects {row : OpRow} (hrow : row ∈ opcodeMap) {r : Request} (h : row.selects r.cmd = true) :
    decode r = .ok (row.op.operands r.cmd r.opnd) := by
  unfold decode
  cases hf : opcodeMap.find? (fun row => row.selects r.cmd) with
  | none => exact absurd h (by simpa using List.find?_eq_none.mp hf row hrow)
  | some row' =>
    have hs : row'.selects r.cmd = true := by simpa using List.find?_some hf
    rw [OpRow.eq_of_selects (List.mem_of_find?_eq_some hf) hrow hs h]

/-- The decoder rejects, by name, a command word that no row selects. -/
theorem decode_of_no_row {r : Request} (h : ∀ row ∈ opcodeMap, row.selects r.cmd = false) :
    decode r = .error (if (opcodeOf r.cmd).toNat < opcodeMap.length then .reservedBit else .reservedOpcode) := by
  unfold decode
  rw [List.find?_eq_none.mpr (by simpa using h)]

/-- What decodes was selected by a row. -/
theorem selects_of_decode {r : Request} {i : Instr} (h : decode r = .ok i) :
    ∃ row ∈ opcodeMap, row.selects r.cmd = true ∧ i = row.op.operands r.cmd r.opnd := by
  by_cases hs : ∃ row ∈ opcodeMap, row.selects r.cmd = true
  · obtain ⟨row, hrow, hsel⟩ := hs
    refine ⟨row, hrow, hsel, ?_⟩
    rw [decode_of_selects hrow hsel] at h
    exact (Except.ok.inj h).symm
  · rw [decode_of_no_row (by simpa using hs)] at h
    cases h

/-- A row whose mask is the opcode byte and the bits `z` selects a word of its opcode exactly when those bits are 0. -/
theorem OpRow.selects_iff_zero_bits {row : OpRow} {z cmd : Word} (hmask : row.mask = z ||| 0xFF)
    (hz : z &&& 0xFF = 0) (hopc : cmd &&& 0xFF = row.pattern) : row.selects cmd = true ↔ cmd &&& z = 0 := by
  have hzp : (cmd &&& z) &&& row.pattern = 0 := by
    rw [← hopc, BitVec.and_assoc, ← BitVec.and_assoc z, BitVec.and_comm z, BitVec.and_assoc, hz]
    simp
  have e : cmd &&& row.mask = (cmd &&& z) ||| row.pattern := by
    rw [hmask, BitVec.and_or_distrib_left, hopc]
  simp only [selects, e, beq_iff_eq]
  constructor
  · intro h
    have : (cmd &&& z) &&& ((cmd &&& z) ||| row.pattern) = 0 := by rw [h, hzp]
    rw [BitVec.and_or_distrib_left, hzp] at this
    simpa using this
  · intro h
    simp [h]

/-- The opcode byte, read out or masked. -/
theorem opcode_masked {cmd : Word} {opc : Byte} (h : cmd.extractLsb' 0 8 = opc) : cmd &&& 0xFF = opc.setWidth 32 := by
  subst h
  apply BitVec.eq_of_getLsbD_eq
  intro j hj
  have h255 : (255#32).getLsbD j = decide (j < 8) := by revert j; decide
  rw [BitVec.getLsbD_eq_getElem hj] at h255
  simp [h255, hj, Bool.and_comm]

end Sys2Proof
end

