-- ==== Sys2Proof/Laws/Header.lean ====
section
/-! SUPPORT. The header of two bytes: its number, its fields, its checks and the frame lengths it gives
(10_state.md R19; 42_decode.md R76, R79). -/

namespace Sys2Proof.Machine

theorem headerOf_toNat (cmf flg : Byte) : (headerOf cmf flg).toNat = cmf.toNat * 256 + flg.toNat := by
  rw [headerOf, BitVec.toNat_append, ← Nat.shiftLeft_add_eq_or_of_lt (BitVec.isLt _), Nat.shiftLeft_eq]

theorem fdictOf_headerOf (cmf flg : Byte) : fdictOf (headerOf cmf flg) = flg.getLsbD 5 := by
  rw [fdictOf, headerOf, BitVec.getLsbD_append, if_pos (by decide)]

theorem cmOf_headerOf (cmf flg : Byte) : cmOf (headerOf cmf flg) = BitVec.ofNat 4 cmf.toNat := by
  apply BitVec.eq_of_getLsbD_eq
  intro j hj
  rw [cmOf, headerOf, BitVec.getLsbD_extractLsb', BitVec.getLsbD_append, BitVec.getLsbD_ofNat, if_neg (by omega)]
  simp [hj, BitVec.getLsbD]

theorem cmOk_headerOf (cmf flg : Byte) : cmOk (headerOf cmf flg) = decide (cmf.toNat % 16 = 8) := by
  rw [cmOk, cmOf_headerOf, Bool.eq_iff_iff, beq_iff_eq, decide_eq_true_eq, ← BitVec.toNat_inj]
  simp [Config.cmDeflate]

theorem chkOk_headerOf (cmf flg : Byte) :
    chkOk (headerOf cmf flg) = decide ((cmf.toNat * 256 + flg.toNat) % 31 = 0) := by
  rw [chkOk, headerOf_toNat, Config.hdrMod, Bool.eq_iff_iff, beq_iff_eq, decide_eq_true_eq]

/-- The model's check is the statement's. -/
theorem hdrOk_headerOf (p : Params) (cmf flg : Byte) : hdrOk p (headerOf cmf flg) = true ↔ HeaderPasses p cmf flg := by
  rw [hdrOk, HeaderPasses, cmOk_headerOf, chkOk_headerOf]
  cases p.strictHeader <;> simp

theorem prefixLen_headerOf (cmf flg : Byte) :
    (prefixLen (headerOf cmf flg)).toNat = 2 + 4 * (flg.getLsbD 5).toNat := by
  rw [prefixLen, fdictOf_headerOf]
  cases flg.getLsbD 5 <;> rfl

theorem minLen_headerOf (cmf flg : Byte) : (minLen (headerOf cmf flg)).toNat = leastFrame flg := by
  rw [minLen, prefixLen, fdictOf_headerOf, leastFrame]
  cases flg.getLsbD 5 <;> rfl

end Sys2Proof.Machine
end

