-- ==== Sys2Proof/Laws/PerInstr.lean ====
section
/-! SUPPORT. A family of statements with one lemma per constructor of Instr: the encoding of a well-formed request is selected
by the request's own row (30_encoding.md R54, R59). -/

namespace Sys2Proof

/-- A field that lies outside a mask adds nothing under it. -/
theorem or_field_and {p x m : Word} (hp : p &&& m = p) (hx : x &&& m = 0) : (p ||| x) &&& m = p := by
  rw [BitVec.and_comm, BitVec.and_or_distrib_left, BitVec.and_comm m p, BitVec.and_comm m x, hp, hx]
  exact BitVec.or_zero

/-- A byte count less one, a mode, a trailer byte index or a level hint lies in bits 9:8. -/
theorem field_two_bits (v : BitVec 2) : field v 8 &&& 0xFFFFFCFF = 0 := by
  revert v; decide

theorem field_flevel (v : BitVec 2) : field v 8 &&& 0xFFFF08FF = 0 := by
  revert v; decide

theorem field_cinfo (v : BitVec 4) : field v 12 &&& 0xFFFF08FF = 0 := by
  revert v; decide

theorem field_fd (v : Bool) : field (BitVec.ofBool v) 10 &&& 0xFFFF08FF = 0 := by
  revert v; decide

theorem field_sel (v : ReadSel) : field v.bits 8 &&& 0xFFFFF8FF = 0 := by
  cases v <;> decide

theorem field_cmf (v : Byte) : field v 16 &&& 0xFF0000FF = 0 := by
  revert v; decide

theorem field_flg (v : Byte) : field v 8 &&& 0xFF0000FF = 0 := by
  revert v; decide

end Sys2Proof

namespace Sys2Proof.Laws.RowSelects

/-- The encoding of `i` is selected by the row of `i`. -/
def Statement (i : Instr) : Prop :=
  i.WellFormed = true → ∃ row ∈ opcodeMap, row.op = i.op ∧ row.selects (encode i).cmd = true

theorem nop : Statement .nop := by unfold Statement; decide

theorem adlerInit : Statement .adlerInit := by unfold Statement; decide

theorem adlerAcc (n : Nat) (w : Word) : Statement (.adlerAcc n w) := fun _ =>
  ⟨⟨.adlerAcc, 0x00000002, 0xFFFFFCFF⟩, by decide, rfl, beq_iff_eq.mpr (or_field_and (by decide) (field_two_bits _))⟩

theorem encBegin (m : BitVec 2) : Statement (.encBegin m) := fun _ =>
  ⟨⟨.encBegin, 0x00000003, 0xFFFFFCFF⟩, by decide, rfl, beq_iff_eq.mpr (or_field_and (by decide) (field_two_bits _))⟩

theorem hdrEmit : Statement .hdrEmit := by unfold Statement; decide

theorem hdrMake (cinfo : BitVec 4) (flevel : BitVec 2) (fd : Bool) : Statement (.hdrMake cinfo flevel fd) := by
  intro _
  refine ⟨⟨.hdrMake, 0x00000005, 0xFFFF08FF⟩, by decide, rfl, beq_iff_eq.mpr ?_⟩
  simp only [encode, BitVec.or_assoc]
  refine or_field_and (by decide) ?_
  rw [BitVec.and_comm, BitVec.and_or_distrib_left, BitVec.and_or_distrib_left, BitVec.and_comm, field_cinfo,
    BitVec.and_comm, field_fd, BitVec.and_comm, field_flevel]
  decide

theorem trlPack : Statement .trlPack := by unfold Statement; decide

theorem trlByte (k : BitVec 2) : Statement (.trlByte k) := fun _ =>
  ⟨⟨.trlByte, 0x00000007, 0xFFFFFCFF⟩, by decide, rfl, beq_iff_eq.mpr (or_field_and (by decide) (field_two_bits _))⟩

/-- The two header bytes lie outside the masks of format F. -/
theorem headerFields (cmf flg : Byte) : (field cmf 16 ||| field flg 8) &&& 0xFF0000FF = 0 := by
  rw [BitVec.and_comm, BitVec.and_or_distrib_left, BitVec.and_comm, field_cmf, BitVec.and_comm, field_flg]
  decide

theorem hdrCheck (cmf flg : Byte) : Statement (.hdrCheck cmf flg) := by
  intro _
  refine ⟨⟨.hdrCheck, 0x00000008, 0xFF0000FF⟩, by decide, rfl, beq_iff_eq.mpr ?_⟩
  simp only [encode, BitVec.or_assoc]
  exact or_field_and (by decide) (headerFields cmf flg)

theorem frameParse (cmf flg : Byte) (len : Word) : Statement (.frameParse cmf flg len) := by
  intro _
  refine ⟨⟨.frameParse, 0x00000009, 0xFF0000FF⟩, by decide, rfl, beq_iff_eq.mpr ?_⟩
  simp only [encode, BitVec.or_assoc]
  exact or_field_and (by decide) (headerFields cmf flg)

theorem trlCheck (t : Word) : Statement (.trlCheck t) := fun _ =>
  ⟨⟨.trlCheck, 0x0000000A, 0xFFFFFFFF⟩, by decide, rfl, by simp [encode, OpRow.selects]⟩

theorem read (sel : ReadSel) : Statement (.read sel) := fun _ =>
  ⟨⟨.read, 0x0000000B, 0xFFFFF8FF⟩, by decide, rfl, beq_iff_eq.mpr (or_field_and (by decide) (field_sel sel))⟩

theorem clrErr : Statement .clrErr := by unfold Statement; decide

theorem softReset : Statement .softReset := by unfold Statement; decide

end Sys2Proof.Laws.RowSelects
end

