-- ==== Sys2Proof/Laws/Words.lean ====
section
/-! SUPPORT. Fields, lanes and bytes of words, as numbers and back (00_scope.md R9; 20_memory.md R34, R35). -/

namespace Sys2Proof

/-- A field of a command word, as a number. -/
theorem extract_eq_ofNat (cmd : Word) (at' w : Nat) : cmd.extractLsb' at' w = BitVec.ofNat w (cmd.toNat / 2 ^ at') := by
  apply BitVec.eq_of_toNat_eq
  simp [BitVec.extractLsb'_toNat, Nat.shiftRight_eq_div_pow]

/-- A field read out and put back is the word's bits of that field. -/
theorem field_extract (cmd : Word) (at' w : Nat) (h : at' + w ≤ 32) :
    field (cmd.extractLsb' at' w) at' = cmd &&& (BitVec.ofNat 32 (2 ^ w - 1) <<< at') := by
  apply BitVec.eq_of_getLsbD_eq
  intro j hj
  rw [field, BitVec.getLsbD_and, BitVec.getLsbD_shiftLeft, BitVec.getLsbD_shiftLeft, BitVec.getLsbD_setWidth,
    BitVec.getLsbD_extractLsb', BitVec.getLsbD_ofNat, Nat.testBit_two_pow_sub_one]
  by_cases h1 : j < at'
  · simp [h1]
  · by_cases h2 : j - at' < w
    · have e : at' + (j - at') = j := by omega
      have e' : j - at' < 32 := by omega
      rw [e]
      simp [hj, h1, h2, e']
    · simp [hj, h1, h2]

/-- A word with known bits under a mask is those bits and its own bits outside. -/
theorem masked_or_rest {cmd mask pattern : Word} (h : cmd &&& mask = pattern) {rest : Word}
    (hrest : mask ||| rest = BitVec.allOnes 32) : pattern ||| (cmd &&& rest) = cmd := by
  rw [← h, ← BitVec.and_or_distrib_left, hrest, BitVec.and_allOnes]

/-- A byte put at a bit of a word, as a number. -/
theorem field_byte_ofNat (v at' : Nat) (h : v < 256) : field (BitVec.ofNat 8 v) at' = BitVec.ofNat 32 (v <<< at') := by
  apply BitVec.eq_of_toNat_eq
  rw [field, BitVec.toNat_shiftLeft, BitVec.toNat_setWidth, BitVec.toNat_ofNat, BitVec.toNat_ofNat,
    Nat.mod_eq_of_lt (show v < 2 ^ 8 by omega), Nat.mod_eq_of_lt (show v < 2 ^ 32 by omega)]

end Sys2Proof

namespace Sys2Proof.Machine

/-- Two halves joined, as a number (10_state.md R16). -/
theorem halves_toNat (b a : Half) : (b ++ a : Word).toNat = b.toNat * 2 ^ 16 + a.toNat := by
  rw [BitVec.toNat_append, ← Nat.shiftLeft_add_eq_or_of_lt (BitVec.isLt _), Nat.shiftLeft_eq]

/-- The four stream bytes of a word are its number, first byte most significant. -/
theorem lanes_toNat (w : Word) :
    (((lane w 0).toNat * 256 + (lane w 1).toNat) * 256 + (lane w 2).toNat) * 256 + (lane w 3).toNat = w.toNat := by
  simp only [lane, BitVec.extractLsb'_toNat, Nat.shiftRight_eq_div_pow]
  have := w.isLt
  omega

/-- Packing four stream bytes and taking a lane gives the byte back. -/
theorem lane_packLanes (b0 b1 b2 b3 : Byte) :
    lane (packLanes b0 b1 b2 b3) 0 = b0 ∧ lane (packLanes b0 b1 b2 b3) 1 = b1
      ∧ lane (packLanes b0 b1 b2 b3) 2 = b2 ∧ lane (packLanes b0 b1 b2 b3) 3 = b3 := by
  refine ⟨?_, ?_, ?_, ?_⟩ <;>
    (apply BitVec.eq_of_getLsbD_eq; intro j hj
     simp only [lane, packLanes, BitVec.getLsbD_extractLsb', BitVec.getLsbD_append])
  · simp [hj, show 24 + j - 8 = 16 + j by omega, show 16 + j - 8 = 8 + j by omega, show 8 + j - 8 = j by omega,
      show ¬ (24 + j < 8) by omega, show ¬ (16 + j < 8) by omega]
  · simp [hj, show 16 + j - 8 = 8 + j by omega, show 8 + j - 8 = j by omega, show ¬ (16 + j < 8) by omega]
  · simp [hj]
  · simp [hj]

/-- A packed word, as a number. -/
theorem packLanes_toNat (b0 b1 b2 b3 : Byte) :
    (packLanes b0 b1 b2 b3).toNat = ((b0.toNat * 256 + b1.toNat) * 256 + b2.toNat) * 256 + b3.toNat := by
  obtain ⟨h0, h1, h2, h3⟩ := lane_packLanes b0 b1 b2 b3
  rw [← lanes_toNat, h0, h1, h2, h3]

/-- The last four bytes of a frame, and what comes before them. -/
theorem frame_tail (pre : List Byte) (t0 t1 t2 t3 : Byte) :
    trailerOf (pre ++ [t0, t1, t2, t3]) = packLanes t0 t1 t2 t3
      ∧ (pre ++ [t0, t1, t2, t3]).take ((pre ++ [t0, t1, t2, t3]).length - 4) = pre := by
  simp [trailerOf]

/-- The trailer word of a frame, as a number. -/
theorem trailerOf_toNat (pre : List Byte) (t0 t1 t2 t3 : Byte) :
    (trailerOf (pre ++ [t0, t1, t2, t3])).toNat = trailerNat t0 t1 t2 t3 := by
  rw [(frame_tail pre t0 t1 t2 t3).1, packLanes_toNat, trailerNat]

end Sys2Proof.Machine
end

