-- ==== Sys2Proof/Tests/Slice0.lean ====
section
/-! SUPPORT. Tests of the model's author: the well-formedness smoke test, the words of 30_encoding.md R54, R59, single steps
with the results 95_test_vectors.md L2 and L3 print, and one witness for the hypotheses of each obligation. -/

open Sys2Proof Sys2Proof.Machine

namespace Sys2Proof.Tests

/-! ### Helpers -/

/-- The instance with `STRICT_HEADER = strict`, `VERIFY_TRAILER = verify` and `EMIT_HEADER = 0x789C` after reset. -/
def inst (strict verify : Bool) : State :=
  State.resetOf { strictHeader := strict, verifyTrailer := verify, emitHeader := 0x789C, zframeBase := none }

/-- An instance after reset, with other sums. -/
def withSums (s : State) (b a : Half) : State :=
  { s with regs.adlA := a, regs.adlB := b }

/-- The response of one step on a request. -/
def respOf (s : State) (cmd opnd : Word) : Option Response :=
  match step (s.offer (.request ⟨cmd, opnd⟩)) with
  | .next t => t.rsp
  | .fault _ => none
  | .refused _ => none

/-- The registers after one step on a request. -/
def regsOf (s : State) (cmd opnd : Word) : Option Regs :=
  match step (s.offer (.request ⟨cmd, opnd⟩)) with
  | .next t => some t.regs
  | .fault _ => none
  | .refused _ => none

/-- What READ gives after one step on a request. -/
def readOf (s : State) (cmd opnd : Word) (sel : ReadSel) : Option Word :=
  (regsOf s cmd opnd).map (fun r => readMap s.params r sel)

/-! ### Well-formedness: a byte count outside 1 to 4 is refused -/

theorem test_wf_count_zero : (Instr.adlerAcc 0 0).WellFormed = false := by decide
theorem test_wf_count_five : (Instr.adlerAcc 5 0).WellFormed = false := by decide
theorem test_wf_count_edges : (Instr.adlerAcc 1 0).WellFormed = true ∧ (Instr.adlerAcc 4 0).WellFormed = true := by decide

/-! ### Decoding: words written out from 30_encoding.md R49 to R54 and R59 -/

theorem test_decode_nop : decode ⟨0x00000000, 0⟩ = .ok .nop := by decide
theorem test_decode_adlerInit : decode ⟨0x00000001, 0⟩ = .ok .adlerInit := by decide
-- OPC 0x02, NM1 = 2 in bits 9:8
theorem test_decode_adlerAcc : decode ⟨0x00000202, 0x61626300⟩ = .ok (.adlerAcc 3 0x61626300) := by decide
theorem test_decode_encBegin : decode ⟨0x00000203, 0⟩ = .ok (.encBegin 2) := by decide
-- code 3 decodes (30_encoding.md R57)
theorem test_decode_encBegin_code3 : decode ⟨0x00000303, 0⟩ = .ok (.encBegin 3) := by decide
theorem test_decode_hdrEmit : decode ⟨0x00000004, 0⟩ = .ok .hdrEmit := by decide
-- CINFO = 7 in bits 15:12, FLEVEL = 2 in bits 9:8
theorem test_decode_hdrMake : decode ⟨0x00007205, 0⟩ = .ok (.hdrMake 7 2 false) := by decide
-- CINFO = 0, FD = 1 in bit 10, FLEVEL = 3
theorem test_decode_hdrMake_fd : decode ⟨0x00000705, 0⟩ = .ok (.hdrMake 0 3 true) := by decide
theorem test_decode_trlPack : decode ⟨0x00000006, 0⟩ = .ok .trlPack := by decide
theorem test_decode_trlByte : decode ⟨0x00000107, 0⟩ = .ok (.trlByte 1) := by decide
-- CMF in bits 23:16, FLG in bits 15:8
theorem test_decode_hdrCheck : decode ⟨0x00789C08, 0⟩ = .ok (.hdrCheck 0x78 0x9C) := by decide
theorem test_decode_frameParse : decode ⟨0x0078BB09, 0x14⟩ = .ok (.frameParse 0x78 0xBB 20) := by decide
theorem test_decode_trlCheck : decode ⟨0x0000000A, 0x024D0127⟩ = .ok (.trlCheck 0x024D0127) := by decide
theorem test_decode_read : decode ⟨0x0000060B, 0⟩ = .ok (.read .trailerOff) := by decide
theorem test_decode_clrErr : decode ⟨0x0000000C, 0⟩ = .ok .clrErr := by decide
theorem test_decode_softReset : decode ⟨0x0000000D, 0⟩ = .ok .softReset := by decide
theorem test_decode_first_reserved : decode ⟨0x0000000E, 0⟩ = .error .reservedOpcode := by decide
theorem test_decode_last_reserved : decode ⟨0x000000FF, 0⟩ = .error .reservedOpcode := by decide
-- 95_test_vectors.md L2: bits the formats mark zero
theorem test_decode_reserved_bits :
    ([0x00000100, 0x00000402, 0x01000002, 0x00000703, 0x00007A05, 0x01789C09, 0x0000080B, 0x0000010D] : List Word).map
      (fun w => decode ⟨w, 0⟩) = List.replicate 8 (.error .reservedBit) := by decide
-- the operand word is bits 63:32 of a table word, and 0 when the table gives the row 32 bits
theorem test_table_word :
    decodeTableWord 64 0x6162630000000202 = some (.adlerAcc 3 0x61626300)
      ∧ decodeTableWord 32 0x00000202 = some (.adlerAcc 3 0) ∧ decodeTableWord 32 0x0E = none := by decide
theorem test_withFetchWord :
    step (State.reset.withFetchWord 64 0x6100000000000002) = exec (.adlerAcc 1 0x61000000) State.reset := by rfl

/-! ### Single steps: 95_test_vectors.md L2.1 to L2.6 and L3 -/

theorem test_nop : respOf (inst false false) 0 0 = some ⟨0, 0⟩ ∧ regsOf (inst false false) 0 0 = some Regs.reset := by decide
theorem test_adlerInit : respOf (withSums (inst false false) 0x024D 0x0127) 0x00000001 0 = some ⟨0, 1⟩ := by decide
-- A2, A3: lanes 1 to 3 are ignored
theorem test_adlerAcc_one_lane : respOf (inst false false) 0x00000002 0x61FFFFFF = some ⟨0, 0x00620062⟩ := by decide
-- A7, A9: the second step of "Wikipedia", and the reduction of a + 255 = 65775
theorem test_adlerAcc_four_lanes_and_wrap :
    respOf (withSums (inst false false) 0x03DA 0x0195) 0x00000302 0x70656469 = some ⟨0, 0x0E4E0337⟩
      ∧ respOf (withSums (inst false false) 0x07FF 0xFFF0) 0x00000002 0xFF000000 = some ⟨0, 0x08FD00FE⟩ := by decide
theorem test_encBegin :
    respOf (inst false false) 0x00000203 0 = some ⟨0, 0x789C⟩
      ∧ readOf (inst false false) 0x00000203 0 .status = some 0x0480
      ∧ readOf (inst false false) 0x00000103 0 .status = some 0x0380 := by decide
-- code 3 leaves the sums alone
theorem test_encBegin_code3 :
    respOf (withSums (inst false false) 0x024D 0x0127) 0x00000303 0 = some ⟨1, 0⟩
      ∧ readOf (withSums (inst false false) 0x024D 0x0127) 0x00000303 0 .adler = some 0x024D0127
      ∧ readOf (inst false false) 0x00000303 0 .status = some 0x9000 := by decide
-- an instance of EMIT_HEADER = 0x7801
theorem test_hdrEmit :
    respOf (inst false false) 0x00000004 0 = some ⟨0, 0x789C⟩
      ∧ respOf (State.resetOf ⟨false, false, 0x7801, none⟩) 0x00000004 0 = some ⟨0, 0x7801⟩ := by decide
theorem test_hdrMake :
    ([0x00007205, 0x00007005, 0x00007105, 0x00007305, 0x00000005, 0x0000F005, 0x00008305] : List Word).map
      (fun w => respOf (inst false false) w 0) =
    [some ⟨0, 0x789C⟩, some ⟨0, 0x7801⟩, some ⟨0, 0x785E⟩, some ⟨0, 0x78DA⟩, some ⟨0, 0x081D⟩, some ⟨0, 0xF800⟩,
      some ⟨0, 0x88D6⟩] := by decide
theorem test_hdrMake_fd : respOf (inst false false) 0x00007605 0 = some ⟨3, 0⟩ := by decide
theorem test_trlPack : respOf (withSums (inst false false) 0x11E6 0x0398) 0x00000006 0 = some ⟨0, 0x11E60398⟩ := by decide
theorem test_trlByte :
    ([0x00000007, 0x00000107, 0x00000207, 0x00000307] : List Word).map
      (fun w => respOf (withSums (inst false false) 0x11E6 0x0398) w 0) =
    [some ⟨0, 0x11⟩, some ⟨0, 0xE6⟩, some ⟨0, 0x03⟩, some ⟨0, 0x98⟩] := by decide
theorem test_hdrCheck :
    respOf (inst true false) 0x00789C08 0 = some ⟨0, 0x0D⟩ ∧ respOf (inst false false) 0x0078BB08 0 = some ⟨0, 0x0F⟩
      ∧ respOf (inst false false) 0x00789D08 0 = some ⟨0, 0x05⟩ ∧ respOf (inst false false) 0x00779C08 0 = some ⟨0, 0x01⟩
      ∧ respOf (inst false false) 0x00000008 0 = some ⟨0, 0x09⟩ := by decide
theorem test_hdrCheck_strict :
    respOf (inst true false) 0x00789D08 0 = some ⟨2, 0⟩ ∧ respOf (inst true false) 0x00000008 0 = some ⟨2, 0⟩
      ∧ readOf (inst true false) 0x00789D08 0 .status = some 0xA000 := by decide
theorem test_frameParse_layout :
    respOf (inst true false) 0x00789C09 11 = some ⟨0, 2⟩
      ∧ readOf (inst true false) 0x00789C09 11 .payloadLen = some 5
      ∧ readOf (inst true false) 0x00789C09 0xFFFFFFFF .trailerOff = some 4294967291
      ∧ readOf (inst true false) 0x0078BB09 20 .payloadLen = some 10
      ∧ readOf (inst true false) 0x0078BB09 20 .status = some 0x001F := by decide
theorem test_frameParse_lengths :
    respOf (inst false false) 0x00789C09 5 = some ⟨2, 0⟩ ∧ respOf (inst false false) 0x00789C09 6 = some ⟨0, 2⟩
      ∧ respOf (inst false false) 0x0078BB09 9 = some ⟨2, 0⟩ ∧ respOf (inst false false) 0x0078BB09 10 = some ⟨0, 6⟩ := by decide
theorem test_trlCheck :
    respOf (withSums (inst false true) 0x024D 0x0127) 0x0000000A 0x024D0127 = some ⟨0, 1⟩
      ∧ respOf (withSums (inst false false) 0x024D 0x0127) 0x0000000A 0x024D0128 = some ⟨0, 0⟩
      ∧ respOf (inst false false) 0x0000000A 0x00000001 = some ⟨0, 1⟩ := by decide
theorem test_trlCheck_verified :
    respOf (withSums (inst false true) 0x024D 0x0127) 0x0000000A 0x024D0128 = some ⟨4, 0⟩
      ∧ readOf (withSums (inst false true) 0x024D 0x0127) 0x0000000A 0x024D0128 .status = some 0xC000 := by decide
theorem test_read_after_reset :
    ([0x0000000B, 0x0000010B, 0x0000020B, 0x0000030B, 0x0000040B, 0x0000050B, 0x0000060B, 0x0000070B] : List Word).map
      (fun w => respOf (inst true true) w 0) =
    [some ⟨0, 1⟩, some ⟨0, 0⟩, some ⟨0, 0⟩, some ⟨0, 0⟩, some ⟨0, 0⟩, some ⟨0, 0⟩, some ⟨0, 0⟩, some ⟨0, 0x789C0003⟩] := by
  decide
theorem test_clrErr :
    regsOf { inst false false with regs := { Regs.reset with errCode := 2, errSticky := true } } 0x0000000C 0 =
      some Regs.reset := by decide
theorem test_softReset :
    regsOf { inst false false with regs := { Regs.reset with hdr := 0x789C, mode := 2, encValid := true } } 0x0000000D 0 =
      some Regs.reset := by decide
theorem test_illegal : respOf (inst false false) 0x0000000E 0 = some ⟨7, 0⟩
    ∧ readOf (inst false false) 0x0000000E 0 .status = some 0xF000 := by decide

/-! ### Witnesses: for each obligation with hypotheses, a state and operands that meet them -/

/-- A legal state that no reset gives: a dictionary frame of 20 bytes parsed, its trailer checked, BestSpeed selected, an
earlier error recorded, both sums at their largest, every check on. -/
def busy : State :=
  { regs := { adlA := 65520, adlB := 65520, hdr := 0x78BB, hdrValid := true, frameValid := true, frameLen := 20,
              trlDone := true, trlMatch := true, encValid := true, mode := 2, errCode := 7, errSticky := true },
    params := { strictHeader := true, verifyTrailer := true, emitHeader := 0x7801, zframeBase := some 0x1000 },
    inputs := [.request ⟨0x0000000D, 0⟩, .idle], rsp := none }

theorem witness_busy_legal : busy.Inv := by constructor <;> decide

/-- A legal state with no frame, no header and no mode. -/
theorem witness_reset_legal : (inst true true).Inv := by constructor <;> decide

theorem witness_DecodeEncodeRoundTrip : (Instr.adlerAcc 1 0x61FFFFFF).WellFormed = true
    ∧ (Instr.adlerAcc 4 0xFFFFFFFF).WellFormed = true ∧ (Instr.hdrMake 15 3 true).WellFormed = true := by decide

theorem witness_EncodeDecodeRoundTrip : decode ⟨0x00000001, 0xFFFFFFFF⟩ = .ok .adlerInit
    ∧ decode ⟨0x00FFFF09, 0xFFFFFFFF⟩ = .ok (.frameParse 0xFF 0xFF 0xFFFFFFFF) := by decide

theorem witness_RequestRunsTheRowThatMatches :
    (busy.offer (.request ⟨0x00000302, 5⟩)).inputs = .request ⟨0x00000302, 5⟩ :: busy.inputs
      ∧ Op.Matches .adlerAcc 0x00000302 ∧ ∀ o : Op, ¬ Op.Matches o 0x0000000E :=
  ⟨rfl, by decide, fun o => by cases o <;> decide⟩

theorem witness_illegal_words :
    ([0x0000000E, 0x000000FF, 0x00000100, 0x8000000D, 0x00000402, 0x00000803, 0x80000007, 0x00000805, 0x00010005,
      0x01000008, 0x01789C09, 0x0000080B] : List Word).map (fun w => decide (IllegalCmd w)) = List.replicate 12 true := by
  decide

theorem witness_legal_words :
    ([0x00000000, 0x0000000D, 0x00000302, 0x00000303, 0x00000307, 0x0000F705, 0x00FFFF08, 0x00FFFF09, 0x0000070B]
      : List Word).map (fun w => decide (IllegalCmd w)) = List.replicate 9 false := by
  decide

theorem witness_IllegalCommandExactly : IllegalCmd 0x0000000E ∧ ¬ IllegalCmd 0x0000000D
    ∧ (busy.offer (.request ⟨0x0000000E, 0⟩)).inputs = .request ⟨0x0000000E, 0⟩ :: busy.inputs := by decide

/-- The hypothesis of `DecodesAs`, for a command word with and one without a 1 among the zero bits. -/
theorem witness_DecodesAs : (0x00000302 : Word).extractLsb' 0 8 = (0x02 : Byte) ∧ (0x00000302 : Word) &&& 0xFFFFFC00 = 0
    ∧ (0x00000402 : Word).extractLsb' 0 8 = (0x02 : Byte) ∧ (0x00000402 : Word) &&& 0xFFFFFC00 ≠ 0 := by decide

/-- Operands at and beyond the edge of each range of the assembler. -/
theorem witness_AssemblerWords :
    (AsmLine.adlerAcc 4 0xFFFFFFFF).assemble = some [⟨0x00000302, 0xFFFFFFFF⟩] ∧ (AsmLine.adlerAcc 0 0).assemble = none
      ∧ (AsmLine.adlerAcc 5 0).assemble = none ∧ (AsmLine.adlerAcc 1 0x100000000).assemble = none
      ∧ (AsmLine.encBegin 3).assemble = some [⟨0x00000303, 0⟩] ∧ (AsmLine.encBegin 4).assemble = none
      ∧ (AsmLine.hdrMake 15 3 1).assemble = some [⟨0x0000F705, 0⟩] ∧ (AsmLine.hdrMake 16 0 0).assemble = none
      ∧ (AsmLine.hdrMake 0 4 0).assemble = none ∧ (AsmLine.hdrMake 0 0 2).assemble = none
      ∧ (AsmLine.trlByte 4).assemble = none ∧ (AsmLine.hdrCheck 256 0).assemble = none
      ∧ (AsmLine.frameParse 255 255 0xFFFFFFFF).assemble = some [⟨0x00FFFF09, 0xFFFFFFFF⟩]
      ∧ (AsmLine.trlCheck 0x100000000).assemble = none ∧ (AsmLine.read 8).assemble = none := by decide

theorem witness_PseudoInstructionsExpand :
    (AsmLine.acc4 255 255 255 255).expand = some [.adlerAcc 4 0xFFFFFFFF]
      ∧ (∀ c ∈ ['p', Char.ofNat 127], c.toNat < 128)
      ∧ (AsmLine.accs ['W', 'i', 'k', 'i', 'p']).expand = some [.adlerAcc 4 0x57696B69, .adlerAcc 1 0x70000000] :=
  ⟨by decide, by simp, by decide⟩

theorem witness_StepRunsTheDecodedRequest :
    busy.inputs = .request ⟨0x0000000D, 0⟩ :: [.idle] ∧ decode ⟨0x0000000D, 0⟩ = .ok .softReset := by decide

theorem witness_IdleStepChangesNoRegister :
    (inst true false).inputs = [] ∧ (busy.offer .idle).inputs = .idle :: busy.inputs := by decide

theorem witness_EveryRequestIsAnswered : (runRequests busy [⟨0x0E, 0⟩, ⟨0, 0⟩]).1 = [⟨7, 0⟩, ⟨0, 0⟩] := by
  rw [runRequests]
  decide

theorem witness_ResetWinsOverRequests :
    (busy.offer (.reset (some ⟨0x00000001, 0⟩))).inputs = .reset (some ⟨0x00000001, 0⟩) :: busy.inputs
      ∧ (busy.offer (.requestThenReset ⟨0x00000001, 0⟩)).inputs = .requestThenReset ⟨0x00000001, 0⟩ :: busy.inputs := by decide

theorem witness_AdlerAccFoldsTheLanes : 1 ≤ 1 ∧ 4 ≤ 4
    ∧ calculateFrom 65520 2047 [(0xFF : Byte)] = (254, 2301) := by decide

theorem witness_ConditionalSubtractionSuffices : (65520 : Half).toNat < 65521
    ∧ byteStep17 65520 65520 255 = (254, 253) ∧ byteStep17 0 0 0 = (0, 0) := by decide

/-- The bytes "abcde" cut in two ways. -/
def cutA : List Chunk := [⟨4, 0x61626364⟩, ⟨1, 0x65FFFFFF⟩]
def cutB : List Chunk := [⟨2, 0x6162FFFF⟩, ⟨3, 0x636465FF⟩]

theorem witness_ChunkingDoesNotMatter : (∀ c ∈ cutA, c.WellFormed = true) ∧ (∀ d ∈ cutB, d.WellFormed = true)
    ∧ chunkBytes cutA = chunkBytes cutB := by decide

theorem witness_AccumulatorComputesCalculate : (∀ c ∈ [(⟨3, 0x61626300⟩ : Chunk)], c.WellFormed = true)
    ∧ calculate (chunkBytes [⟨3, 0x61626300⟩]) = 0x024D0127 := by decide

theorem witness_SumsDependOnlyOnSums :
    (withSums (inst true false) 65520 65520).regs.adlA = busy.regs.adlA
      ∧ (withSums (inst true false) 65520 65520).regs.adlB = busy.regs.adlB
      ∧ (withSums (inst true false) 65520 65520).params ≠ busy.params := by decide

theorem witness_IgnoredOperandBitsHaveNoEffect :
    (∀ k < 1, (0x61FFFFFF : Word).extractLsb' (24 - 8 * k) 8 = (0x61000000 : Word).extractLsb' (24 - 8 * k) 8)
      ∧ ∀ o : Op, Op.usesOperand o = true → ¬ Op.Matches o 0x00000203 :=
  ⟨by decide, fun o => by cases o <;> decide⟩

theorem witness_EncBeginStartsOrRefuses : (0 : BitVec 2) ≠ 3 ∧ (2 : BitVec 2) ≠ 3 := by decide

theorem witness_NoDictionaryHeaderIsMade : busy.params.WellFormed = true ∧ Params.default.WellFormed = true
    ∧ (Instr.hdrMake 15 3 false).op = .hdrMake := by decide

theorem witness_EncodeProcedureMakesTheFrame :
    (∀ c ∈ cutA, c.WellFormed = true) ∧ busy.params.WellFormed = true
      ∧ (encodeProcedure busy 2 cutA (fun d _ => d)).1 =
        some [0x78, 0x01, 0x61, 0x62, 0x63, 0x64, 0x65, 0x05, 0xC8, 0x01, 0xF0]
      ∧ (encodeProcedure busy 3 cutA (fun d _ => d)).1 = none := by decide

theorem witness_TrailerIsTheSameForEveryMode : (∀ c ∈ cutA, c.WellFormed = true) ∧ (∀ c ∈ cutB, c.WellFormed = true)
    ∧ chunkBytes cutA = chunkBytes cutB ∧ (0 : BitVec 2) ≠ 3 ∧ (2 : BitVec 2) ≠ 3 := by decide

theorem witness_HdrCheckOpensAHeaderContext :
    HeaderPasses busy.params 0x78 0x9C ∧ HeaderPasses busy.params 0x78 0xBB ∧ HeaderPasses (inst false true).params 0 0
      ∧ ¬ HeaderPasses busy.params 0x78 0x9D ∧ ¬ HeaderPasses busy.params 0x00 0x00 := by
  decide

theorem witness_FrameParseFixesTheLayout : HeaderPasses busy.params 0x78 0xBB ∧ leastFrame 0x9C = 6 ∧ leastFrame 0xBB = 10
    ∧ leastFrame 0x9C ≤ (6 : Word).toNat ∧ leastFrame 0x9C ≤ (0xFFFFFFFF : Word).toNat ∧ (5 : Word).toNat < leastFrame 0x9C
    ∧ leastFrame 0xBB ≤ (10 : Word).toNat ∧ (9 : Word).toNat < leastFrame 0xBB := by decide

theorem witness_LayoutPartitionsTheFrame : busy.regs.frameValid = true ∧ (inst true true).regs.frameValid = false := by decide

/-- Two headers that pass and differ in more than FLG[5] would: 0x789C and 0x7801. -/
theorem witness_LayoutDependsOnlyOnFdict : HeaderPasses busy.params 0x78 0x9C ∧ HeaderPasses busy.params 0x78 0x01
    ∧ (0x9C : Byte).getLsbD 5 = (0x01 : Byte).getLsbD 5 := by
  decide

theorem witness_TrlCheckComparesTheTrailer :
    (0xFFF0FFF0 : Word) = busy.regs.adlB ++ busy.regs.adlA ∧ (0xFFF0FFF1 : Word) ≠ busy.regs.adlB ++ busy.regs.adlA
      ∧ (1 : Word) = (inst false false).regs.adlB ++ (inst false false).regs.adlA
      ∧ (2 : Word) ≠ (inst false false).regs.adlB ++ (inst false false).regs.adlA
      ∧ (inst false false).params.verifyTrailer = false ∧ busy.params.verifyTrailer = true
      ∧ 65521 ≤ (0xFFF0FFF1 : Word).toNat % 2 ^ 16 ∧ 65521 ≤ (0xFFF10127 : Word).toNat / 2 ^ 16 := by decide

/-- A way of cutting bytes: one a request. -/
def oneByOne (bytes : List Byte) : List Chunk :=
  bytes.map (fun b => ⟨1, field b 24⟩)

theorem lanes_one (b : Byte) : lanes (field b 24) 1 = [b] := by
  revert b
  decide

theorem oneByOne_chops (d : List Byte) :
    (∀ c ∈ oneByOne d, c.WellFormed = true) ∧ chunkBytes (oneByOne d) = d := by
  constructor
  · simp only [oneByOne, List.mem_map]
    rintro c ⟨b, -, rfl⟩
    rfl
  · induction d with
    | nil => rfl
    | cons b d ih =>
      simp only [chunkBytes, oneByOne, List.map_cons, List.flatMap_cons, lanes_one] at ih ⊢
      rw [ih]
      rfl

/-- An engine that stores the bytes behind a first byte, which is the effort; it fails on a stream of no bytes, with one byte
put out. -/
def storing : List Byte → EngineResult
  | [] => .failed [0]
  | _ :: bytes => .done bytes

def goesOn : HostChoices := ⟨0xFF, 0xFF, false⟩
def stops : HostChoices := ⟨0, 0, true⟩

theorem witness_DecodeOfEncodeReturnsTheBytes :
    (1 : BitVec 2) ≠ 3 ∧ busy.params.WellFormed = true ∧ (∀ c ∈ cutA, c.WellFormed = true)
      ∧ (∀ d, (∀ c ∈ oneByOne d, c.WellFormed = true) ∧ chunkBytes (oneByOne d) = d)
      ∧ (∀ (d : List Byte) (e : Bool), storing ((BitVec.ofBool e).setWidth 8 :: d) = .done d)
      ∧ ((1 : Byte) :: chunkBytes cutA).length + 6 < 2 ^ 32 :=
  ⟨by decide, by decide, by decide, oneByOne_chops, fun _ _ => rfl, by decide⟩

theorem exists_long_frame (n : Nat) : ∃ f : List Byte, n ≤ f.length :=
  ⟨List.replicate n 0, List.length_replicate.ge⟩

/-- A frame of 9 bytes with FDICT, one of 5, one with a header that fails, one of no payload, which the engine fails on. -/
theorem witness_DecodeProcedureRejects :
    (∀ d, (∀ c ∈ oneByOne d, c.WellFormed = true) ∧ chunkBytes (oneByOne d) = d)
      ∧ (([0x78, 0xBB, 0, 0, 0, 0, 0, 0, 1] : List Byte).length < 10 ∧ (0xBB : Byte).getLsbD 5 = true)
      ∧ ([0x78, 0x9C, 0, 0, 0] : List Byte).length < 6
      ∧ ¬ HeaderPasses busy.params 0x78 0x9D
      ∧ FrameAccepted busy.params [0x78, 0x9C, 0, 0, 0, 1]
      ∧ ([0x78, 0x9C, 0, 0, 0, 1] : List Byte) = [0x78, 0x9C] ++ [0, 0, 0, 1]
      ∧ storing (([0x78, 0x9C] : List Byte).drop (2 + 4 * ((0x9C : Byte).getLsbD 5).toNat)) = .failed [0]
      ∧ ∃ f : List Byte, 2 ^ 32 ≤ f.length :=
  ⟨oneByOne_chops, by decide, by decide, by decide, by decide, by decide, by decide, exists_long_frame _⟩

/-- The frame of "a" with trailer bytes 0, 0x62, 0, 0x63: one too much. -/
theorem witness_DecodeProcedureRejects_trailer : busy.params.verifyTrailer = true
    ∧ FrameAccepted busy.params [0x78, 0x9C, 1, 0x61, 0, 0x62, 0, 0x63]
    ∧ ([0x78, 0x9C, 1, 0x61, 0, 0x62, 0, 0x63] : List Byte) = [0x78, 0x9C, 1, 0x61] ++ [0, 0x62, 0, 0x63]
    ∧ storing (([0x78, 0x9C, 1, 0x61] : List Byte).drop (2 + 4 * ((0x9C : Byte).getLsbD 5).toNat)) = .done [0x61]
    ∧ trailerNat 0 0x62 0 0x63 ≠ calculate [0x61] := by decide

/-- The frame of "a" with its trailer on both kinds of instance, the wrong one where nothing verifies it. -/
theorem witness_DecodeProcedureReturns :
    FrameAccepted busy.params [0x78, 0x9C, 1, 0x61, 0, 0x62, 0, 0x62] ∧ trailerNat 0 0x62 0 0x62 = calculate [0x61]
      ∧ FrameAccepted (inst false false).params [0x78, 0x9C, 1, 0x61, 0, 0x62, 0, 0x63]
      ∧ (inst false false).params.verifyTrailer = false ∧ stops.stopEarly = true ∧ goesOn.stopEarly = false := by decide

/-- 42_decode.md R83, step 2: the engine's failure is MalformedInput, a wrong trailer ChecksumMismatch. -/
theorem test_decode_reports :
    (decodeProcedure busy [0x78, 0x9C, 0, 0, 0, 1] storing oneByOne goesOn).1 = .error (.reported .malformedInput)
      ∧ (decodeProcedure busy [0x78, 0x9C, 1, 0x61, 0, 0x62, 0, 0x63] storing oneByOne stops).1 =
        .error (.reported .checksumMismatch) := by decide

/-- 42_decode.md R83, step 3: silent acceptance where VERIFY_TRAILER = 0. -/
theorem test_decode_stops :
    (decodeProcedure (inst false false) [0x78, 0x9C, 1, 0x61, 0, 0x62, 0, 0x63] storing oneByOne stops).1 = .ok [0x61] := by
  decide

theorem witness_ResetValues :
    (busy.offer (.reset none)).inputs = .reset none :: busy.inputs
      ∧ (busy.offer (.requestThenReset ⟨0x00000302, 5⟩)).inputs = .requestThenReset ⟨0x00000302, 5⟩ :: busy.inputs
      ∧ busy.inputs = .request ⟨0x0000000D, 0⟩ :: [.idle] := by decide

/-- A request that ends in a frame-class error, and one that ends in another. -/
theorem witness_ErrorEffect :
    respOf busy 0x0000000A 0 = some ⟨4, 0⟩ ∧ regsOf busy 0x0000000A 0 = some (afterError busy.regs 4)
      ∧ respOf busy 0x00000303 0 = some ⟨1, 0⟩ ∧ regsOf busy 0x00000303 0 = some (afterError busy.regs 1) := by decide

theorem witness_WhichRequestsRaiseWhichErrors :
    (busy.offer (.request ⟨0x0E, 0⟩)).inputs = .request ⟨0x0E, 0⟩ :: busy.inputs ∧ ∀ o : Op, ¬ Op.Matches o 0x0E :=
  ⟨rfl, fun o => by cases o <;> decide⟩

theorem witness_ResponseCodes : ([0x0E, 0x303, 0x705, 0x00789D08, 0x0A, 0] : List Word).map
    (fun w => (respOf busy w 0).map Response.err) = [some 7, some 1, some 3, some 2, some 4, some 0] := by decide

theorem witness_ErrorRecord : decode ⟨0x00000000, 0⟩ = .ok .nop ∧ decode ⟨0x0000000C, 0⟩ = .ok .clrErr
    ∧ respOf busy 0x00000000 0 = some ⟨0, 0⟩ ∧ respOf busy 0x0000000C 0 = some ⟨0, 0⟩ ∧ respOf busy 0x00000303 0 = some ⟨1, 0⟩
    ∧ (busy.offer .idle).inputs = .idle :: busy.inputs ∧ (busy.offer (.reset none)).inputs = .reset none :: busy.inputs := by decide

theorem witness_ResetIsLegal : Params.default.WellFormed = true ∧ busy.params.WellFormed = true := by decide

theorem witness_StepKeepsLegal : busy.Inv ∧ ∃ t : State, step busy = .next t :=
  ⟨witness_busy_legal, ⟨{ busy with regs := Regs.reset, inputs := [.idle], rsp := some ⟨0, 0⟩ }, rfl⟩⟩

/-- A state with the first request of P1 presented, and the state after it. -/
theorem witness_SumsStayBelowTheModulus : Reachable ((inst true true).offer (.request ⟨0x302, 0x57696B69⟩))
    ∧ Reachable { inst true true with regs := { Regs.reset with adlA := 0x0195, adlB := 0x03DA }, rsp := some ⟨0, 0x03DA0195⟩ } :=
  have h := Reachable.reset (inst true true).params [.request ⟨0x302, 0x57696B69⟩] (by decide)
  ⟨h, .step h rfl⟩

theorem witness_WritersOfTheSums : (busy.offer (.request ⟨0x302, 0x57696B69⟩)).inputs =
    .request ⟨0x302, 0x57696B69⟩ :: busy.inputs := by decide

theorem witness_RegistersKeepTheirWriters : Instr.nop.op ∉ [Op.adlerInit, .adlerAcc, .encBegin, .softReset]
    ∧ Instr.nop.op ∉ [Op.hdrCheck, .frameParse, .softReset] ∧ Instr.nop.op ∉ [Op.trlCheck, .hdrCheck, .frameParse, .softReset]
    ∧ respOf busy 0 0 = some ⟨0, 0⟩ := by decide

/-- Two instances, one step of the first. -/
theorem witness_InstancesAreIndependent : (0 : Nat) ≠ 1
    ∧ ((⟨[busy, inst true true]⟩ : Platform).stepAt 0).instances[1]? = some (inst true true)
    ∧ ((⟨[busy, inst true true]⟩ : Platform).stepAt 0).instances[0]? ≠ some busy := by decide

end Sys2Proof.Tests
end

section
/-! The step on a presented request (00_scope.md R6; 30_encoding.md R55). -/

namespace Sys2Proof.Machine

/-- The step takes the presented request, and serving a request that decodes is `exec` of the decoded instruction. -/
theorem step_of_decoded_request {s : State} {r : Request} {rest : List HostInput} {i : Instr}
    (hin : s.inputs = .request r :: rest) (hdec : decode r = .ok i) :
    step s = exec i { s with inputs := rest } :=
  calc step s = takeInput (.request r) { s with inputs := rest } := step_of_inputs hin
    _ = serve r { s with inputs := rest } := takeInput_request _ r
    _ = exec i { s with inputs := rest } := serve_ok hdec _

/-- Settles O8: taking the input, then serving the request, leaves only `exec` of the decoded instruction. -/
theorem stepRunsTheDecodedRequest : Obligations.StepRunsTheDecodedRequest := by
  intro s r rest i hin hdec
  exact step_of_decoded_request hin hdec

end Sys2Proof.Machine
end

section
/-! What one accepted request does, said once: the requests that succeed, the registers they write, and that every other
request raises an error on the state it was given (60_exceptions.md R94, R97). -/

namespace Sys2Proof.Machine

/-- The requests that end in no error on `s` (60_exceptions.md R94). -/
def Succeeds (s : State) : Instr → Prop
  | .encBegin m => m ≠ 3
  | .hdrMake _ _ fd => fd = false
  | .hdrCheck cmf flg => hdrOk s.params (headerOf cmf flg) = true
  | .frameParse cmf flg len => hdrOk s.params (headerOf cmf flg) = true ∧ minLen (headerOf cmf flg) ≤ len
  | .trlCheck t => s.params.verifyTrailer = true → t = s.regs.adler
  | _ => True

/-- The register writes of a request that succeeds (10_state.md R15, the "written by" column). -/
def writes (s : State) : Instr → State
  | .adlerInit => s.startSums
  | .adlerAcc n w => s.accumulate (lanes w n)
  | .encBegin m => s.startSums.selectMode m
  | .hdrCheck cmf flg => (s.openHeader (headerOf cmf flg)).closeFrame
  | .frameParse cmf flg len => (s.openHeader (headerOf cmf flg)).openFrame len
  | .trlCheck t => s.recordTrailer (t == s.regs.adler)
  | .clrErr => s.clearError
  | .softReset => s.resetRegs
  | _ => s

@[simp] theorem writes_params (s : State) (i : Instr) : (writes s i).params = s.params := by
  cases i <;> rfl

/-- A request either succeeds and answers after its writes, or raises one error. -/
theorem exec_cases (i : Instr) (s : State) :
    (Succeeds s i ∧ ∃ v : Word, exec i s = .next ((writes s i).respond v))
      ∨ ∃ e : Err, exec i s = .next (s.raise e) := by
  cases i with
  | encBegin m =>
    by_cases hm : m = 3
    · exact .inr ⟨.invalidArgument, by simp [exec, execEncBegin, hm]⟩
    · exact .inl ⟨hm, _, by simp only [exec, execEncBegin, if_neg hm]; rfl⟩
  | hdrMake cinfo flevel fd =>
    cases fd with
    | true => exact .inr ⟨.notImplemented, rfl⟩
    | false => exact .inl ⟨rfl, _, rfl⟩
  | hdrCheck cmf flg =>
    by_cases hh : hdrOk s.params (headerOf cmf flg) = true
    · exact .inl ⟨hh, _, by simp only [exec, execHdrCheck, if_pos hh]; rfl⟩
    · exact .inr ⟨.malformedInput, by simp [exec, execHdrCheck, hh]⟩
  | frameParse cmf flg len =>
    by_cases hh : hdrOk s.params (headerOf cmf flg) = false ∨ len < minLen (headerOf cmf flg)
    · exact .inr ⟨.malformedInput, by simp only [exec, execFrameParse, if_pos hh]⟩
    · have hs : Succeeds s (.frameParse cmf flg len) := by simpa [Succeeds] using hh
      exact .inl ⟨hs, _, by simp only [exec, execFrameParse, if_neg hh]; rfl⟩
  | trlCheck t =>
    by_cases hv : (s.params.verifyTrailer && !(t == s.regs.adler)) = true
    · exact .inr ⟨.checksumMismatch, by simp only [exec, execTrlCheck, if_pos hv]⟩
    · have hs : Succeeds s (.trlCheck t) := by simpa [Succeeds] using hv
      exact .inl ⟨hs, _, by simp only [exec, execTrlCheck, if_neg hv]; rfl⟩
  | _ => exact .inl ⟨trivial, _, rfl⟩

/-! The registers outside a request's rows (10_state.md R15). -/

theorem writes_sums {s : State} {i : Instr} (h : i.op ∉ [Op.adlerInit, .adlerAcc, .encBegin, .softReset]) :
    (writes s i).regs.adlA = s.regs.adlA ∧ (writes s i).regs.adlB = s.regs.adlB := by
  cases i with
  | adlerInit | adlerAcc | encBegin | softReset => simp [Instr.op] at h
  | _ => exact ⟨rfl, rfl⟩

theorem writes_header {s : State} {i : Instr} (h : i.op ∉ [Op.hdrCheck, .frameParse, .softReset]) :
    (writes s i).regs.hdr = s.regs.hdr ∧ (writes s i).regs.hdrValid = s.regs.hdrValid
      ∧ (writes s i).regs.frameValid = s.regs.frameValid := by
  cases i with
  | hdrCheck | frameParse | softReset => simp [Instr.op] at h
  | _ => exact ⟨rfl, rfl, rfl⟩

theorem writes_frameLen {s : State} {i : Instr} (h : i.op ∉ [Op.frameParse, .softReset]) :
    (writes s i).regs.frameLen = s.regs.frameLen := by
  cases i with
  | frameParse | softReset => simp [Instr.op] at h
  | _ => rfl

theorem writes_trailer {s : State} {i : Instr} (h : i.op ∉ [Op.trlCheck, .hdrCheck, .frameParse, .softReset]) :
    (writes s i).regs.trlDone = s.regs.trlDone ∧ (writes s i).regs.trlMatch = s.regs.trlMatch := by
  cases i with
  | trlCheck | hdrCheck | frameParse | softReset => simp [Instr.op] at h
  | _ => exact ⟨rfl, rfl⟩

theorem writes_mode {s : State} {i : Instr} (h : i.op ∉ [Op.encBegin, .softReset]) :
    (writes s i).regs.encValid = s.regs.encValid ∧ (writes s i).regs.mode = s.regs.mode := by
  cases i with
  | encBegin | softReset => simp [Instr.op] at h
  | _ => exact ⟨rfl, rfl⟩

/-- No error touches the sums, HDR, FRAME_LEN, ENC_VALID or MODE (60_exceptions.md R96). -/
theorem afterError_frame (r : Regs) (e : BitVec 3) :
    (afterError r e).adlA = r.adlA ∧ (afterError r e).adlB = r.adlB ∧ (afterError r e).hdr = r.hdr
      ∧ (afterError r e).frameLen = r.frameLen ∧ (afterError r e).encValid = r.encValid
      ∧ (afterError r e).mode = r.mode := by
  unfold afterError
  split <;> exact ⟨rfl, rfl, rfl, rfl, rfl, rfl⟩

/-- An error outside the frame class writes the error record alone (60_exceptions.md R96). -/
theorem afterError_of_ne (r : Regs) {e : BitVec 3} (h2 : e ≠ 2) (h4 : e ≠ 4) :
    afterError r e = { r with errCode := e, errSticky := true } :=
  if_neg (not_or.mpr ⟨h2, h4⟩)

/-- Settles O53: a raised error leaves what `afterError_frame` lists, and a success writes its own rows alone. -/
theorem registersKeepTheirWriters : Obligations.RegistersKeepTheirWriters := by
  intro i s
  rcases exec_cases i s with ⟨-, v, hv⟩ | ⟨e, he⟩
  · refine ⟨_, ⟨0, v⟩, hv, rfl, ?_⟩
    exact ⟨writes_sums, fun h => (writes_header h).1, fun h _ _ => (writes_header h).2, writes_frameLen,
      fun h _ _ => writes_trailer h, writes_mode⟩
  · obtain ⟨hA, hB, hHdr, hLen, hEnc, hMode⟩ := afterError_frame s.regs e.code
    refine ⟨_, ⟨e.code, 0⟩, he, State.raise_rsp s e, ?_⟩
    rw [State.raise_regs]
    refine ⟨fun _ => ⟨hA, hB⟩, fun _ => hHdr, fun _ h2 h4 => ?_, fun _ => hLen, fun _ h2 h4 => ?_,
      fun _ => ⟨hEnc, hMode⟩⟩
    · rw [afterError_of_ne s.regs h2 h4]
      exact ⟨rfl, rfl⟩
    · rw [afterError_of_ne s.regs h2 h4]
      exact ⟨rfl, rfl⟩

end Sys2Proof.Machine
end

section
/-! What one step can do, said once, and what every step keeps (70_reset_and_hazards.md R107, R119, R120). -/

namespace Sys2Proof.Machine

/-- The states in which taking the host input `x` can leave `s`. -/
inductive TakenTo (s : State) : HostInput → State → Prop where
  | idle : TakenTo s .idle s.idleEdge
  | reset (presented : Option Request) : TakenTo s (.reset presented) s.hardReset
  | cutOff (r : Request) : TakenTo s (.requestThenReset r) s.hardReset
  | raised (r : Request) (e : Err) : TakenTo s (.request r) (s.raise e)
  | done (r : Request) (i : Instr) (v : Word) (hdec : decode r = .ok i) (hs : Succeeds s i) :
    TakenTo s (.request r) ((writes s i).respond v)

/-- Every request is served to one of the two outcomes of a request. -/
theorem serve_takenTo (r : Request) (s : State) : ∃ t : State, serve r s = .next t ∧ TakenTo s (.request r) t := by
  cases hdec : decode r with
  | error e => exact ⟨_, serve_error hdec s, .raised r _⟩
  | ok i =>
    rw [serve_ok hdec]
    rcases exec_cases i s with ⟨hs, v, hv⟩ | ⟨e, he⟩
    · exact ⟨_, hv, .done r i v hdec hs⟩
    · exact ⟨_, he, .raised r e⟩

/-- Every host input is taken. -/
theorem takeInput_takenTo (x : HostInput) (s : State) : ∃ t : State, takeInput x s = .next t ∧ TakenTo s x t := by
  cases x with
  | idle => exact ⟨_, takeInput_idle s, .idle⟩
  | request r => exact serve_takenTo r s
  | reset presented => exact ⟨_, takeInput_reset s presented, .reset presented⟩
  | requestThenReset r => exact ⟨_, takeInput_requestThenReset s r, .cutOff r⟩

/-- Every step answers a next state, that of its input. -/
theorem step_takenTo (s : State) : ∃ t : State, step s = .next t ∧ TakenTo s.nextInput.2 s.nextInput.1 t :=
  takeInput_takenTo s.nextInput.1 s.nextInput.2

@[simp] theorem State.nextInput_regs (s : State) : s.nextInput.2.regs = s.regs := by
  unfold State.nextInput
  split <;> rfl

@[simp] theorem State.nextInput_params (s : State) : s.nextInput.2.params = s.params := by
  unfold State.nextInput
  split <;> rfl

/-- No request and no reset changes a parameter (10_state.md R27). -/
theorem TakenTo.params {s t : State} {x : HostInput} (h : TakenTo s x t) : t.params = s.params := by
  cases h with
  | idle | reset | cutOff => rfl
  | raised r e => exact State.raise_params s e
  | done r i v => exact writes_params s i

theorem configWord_fields (p : Params) :
    (configWord p).getLsbD 0 = p.strictHeader ∧ (configWord p).getLsbD 1 = p.verifyTrailer
      ∧ (configWord p).extractLsb' 2 14 = 0 ∧ (configWord p).extractLsb' 16 16 = p.emitHeader := by
  simp [configWord, BitVec.getElem_append (m := 1), BitVec.extractLsb'_append_eq_of_le (w := 1),
    BitVec.extractLsb'_append_eq_of_le (w := 14), BitVec.extractLsb'_append_eq_right (w' := 14)]

/-- Settles O41: CONFIG is a function of the parameters, and no input changes those. -/
theorem configIsConstant : Obligations.ConfigIsConstant := by
  refine ⟨fun s => ⟨configWord s.params, rfl, configWord_fields s.params⟩, fun s => ?_⟩
  obtain ⟨t, ht, htaken⟩ := step_takenTo s
  have hp : t.params = s.params := htaken.params.trans s.nextInput_params
  exact ⟨t, ht, hp, congrArg configWord hp⟩

/-- Settles O9: both forms of nothing presented are an idle edge. -/
theorem idleStepChangesNoRegister : Obligations.IdleStepChangesNoRegister := by
  intro s
  exact ⟨fun hin => step_of_no_inputs hin, fun rest hin => step_of_inputs hin⟩

/-- Settles O52: the inputs that write the sums are read off the outcomes of a step. -/
theorem writersOfTheSums : Obligations.WritersOfTheSums := by
  intro s x rest hin
  rw [step_of_inputs hin]
  obtain ⟨t, ht, htaken⟩ := takeInput_takenTo x { s with inputs := rest }
  refine ⟨t, ht, ?_⟩
  cases htaken with
  | idle => exact .inl ⟨rfl, rfl⟩
  | reset presented => exact .inr (.inl ⟨rfl, rfl, .inl ⟨presented, rfl⟩⟩)
  | cutOff r => exact .inr (.inl ⟨rfl, rfl, .inr (.inl ⟨r, rfl⟩)⟩)
  | raised r e =>
    rw [State.raise_regs]
    obtain ⟨hA, hB, -⟩ := afterError_frame s.regs e.code
    exact .inl ⟨hA, hB⟩
  | done r i v hdec hs =>
    cases i with
    | adlerInit => exact .inr (.inl ⟨rfl, rfl, .inr (.inr ⟨r, _, rfl, hdec, .inl rfl⟩)⟩)
    | softReset => exact .inr (.inl ⟨rfl, rfl, .inr (.inr ⟨r, _, rfl, hdec, .inr (.inl rfl)⟩)⟩)
    | encBegin m => exact .inr (.inl ⟨rfl, rfl, .inr (.inr ⟨r, _, rfl, hdec, .inr (.inr ⟨m, hs, rfl⟩)⟩)⟩)
    | adlerAcc n w =>
      refine .inr (.inr ⟨r, n, w, rfl, hdec, ?_⟩)
      rw [← foldBytes_eq_calculateFrom]
      exact State.accumulate_sums _ (lanes w n)
    | _ => exact .inl ⟨rfl, rfl⟩

end Sys2Proof.Machine
end

section
/-! The values derived from the registers: the layout and the STATUS word (10_state.md R20, R22, R24, R26). -/

namespace Sys2Proof.Machine

theorem prefixLen_eq (h : Half) : prefixLen h = BitVec.ofNat 32 (2 + 4 * (h.getLsbD 5).toNat) := by
  rw [prefixLen, fdictOf]
  cases h.getLsbD 5 <;> rfl

theorem minLen_toNat (h : Half) : (minLen h).toNat = 6 + 4 * (h.getLsbD 5).toNat := by
  rw [minLen, prefixLen_eq]
  cases h.getLsbD 5 <;> rfl

theorem Regs.effort_eq (r : Regs) : r.effort = (r.encValid && decide (r.mode ≠ 2)) := by
  simp [Regs.effort, CompressionMode.code, bne, Bool.beq_eq_decide_eq]

/-- Each flag of STATUS at its bit, the appended pieces peeled off from bit 0 (10_state.md R26). -/
theorem status_flags (r : Regs) :
    r.status.getLsbD 0 = r.hdrValid ∧ r.status.getLsbD 1 = r.fdictS ∧ r.status.getLsbD 2 = r.cmOkS
      ∧ r.status.getLsbD 3 = r.chkOkS ∧ r.status.getLsbD 4 = r.frameValid ∧ r.status.getLsbD 5 = r.trlDone
      ∧ r.status.getLsbD 6 = r.trlMatch ∧ r.status.getLsbD 7 = r.encValid ∧ r.status.getLsbD 8 = r.effort
      ∧ r.status.getLsbD 11 = false ∧ r.status.getLsbD 15 = r.errSticky := by
  simp [Regs.status, BitVec.getElem_append (m := 1), BitVec.getElem_append (m := 2), BitVec.getElem_append (m := 3)]

/-- Each field of STATUS of more than one bit (10_state.md R26). -/
theorem status_fields (r : Regs) :
    r.status.extractLsb' 9 2 = r.mode ∧ r.status.extractLsb' 12 3 = r.errCode ∧ r.status.extractLsb' 16 16 = 0 := by
  simp [Regs.status, BitVec.extractLsb'_append_eq_of_le (w := 1), BitVec.extractLsb'_append_eq_of_le (w := 2),
    BitVec.extractLsb'_append_eq_of_le (w := 3), BitVec.extractLsb'_append_eq_right (w' := 2),
    BitVec.extractLsb'_append_eq_right (w' := 3)]

/-- Settles O40: the bits of the word, with the derived flags written out. -/
theorem statusBits : Obligations.StatusBits := by
  intro r
  obtain ⟨h0, h1, h2, h3, h4, h5, h6, h7, h8, h11, h15⟩ := status_flags r
  obtain ⟨hmode, hcode, hzero⟩ := status_fields r
  exact ⟨h0, h1, h2, h3, h4, h5, h6, h7, h8.trans r.effort_eq, hmode, h11, hcode, h15, hzero⟩

/-- The layout of a frame that is long enough, as numbers: no subtraction of R22 wraps. -/
theorem layout_toNat {r : Regs} (hf : r.frameValid = true)
    (hlen : 6 + 4 * (r.hdr.getLsbD 5).toNat ≤ r.frameLen.toNat) :
    r.payloadOff.toNat = 2 + 4 * (r.hdr.getLsbD 5).toNat ∧ r.trailerOff.toNat = r.frameLen.toNat - 4
      ∧ r.payloadLen.toNat = r.frameLen.toNat - 4 - (2 + 4 * (r.hdr.getLsbD 5).toNat) := by
  have hbit : (r.hdr.getLsbD 5).toNat ≤ 1 := Bool.toNat_le _
  have hoff : r.payloadOff.toNat = 2 + 4 * (r.hdr.getLsbD 5).toNat := by
    rw [Regs.payloadOff, if_pos hf, prefixLen_eq, BitVec.toNat_ofNat]
    omega
  have htrl : r.trailerOff.toNat = r.frameLen.toNat - 4 := by
    have hle : BitVec.ofNat 32 Config.trlLen ≤ r.frameLen := BitVec.le_def.mpr (show 4 ≤ r.frameLen.toNat by omega)
    rw [Regs.trailerOff, if_pos hf, BitVec.toNat_sub_of_le hle]
    rfl
  refine ⟨hoff, htrl, ?_⟩
  rw [Regs.payloadLen, if_pos hf, BitVec.toNat_sub_of_le (BitVec.le_def.mpr (by omega)), hoff, htrl]

/-- Settles O30: the three formulas by definition, and the partition from `layout_toNat` with R21's least length. -/
theorem layoutPartitionsTheFrame : Obligations.LayoutPartitionsTheFrame := by
  intro s
  refine ⟨?_, rfl, rfl, fun hinv hf => ?_⟩
  · rw [Regs.payloadOff, prefixLen_eq]
  · have hlen := hinv.frame_long_enough hf
    obtain ⟨hoff, htrl, hpay⟩ := layout_toNat hf hlen
    omega

end Sys2Proof.Machine
end

section
/-! The legal registers: each group of writes keeps them, hence every step does (10_state.md R18 to R25). -/

namespace Sys2Proof.Machine

/-- The reset values are legal with well-formed parameters (10_state.md R32). -/
theorem legal_reset {p : Params} (hp : p.WellFormed = true) : Legal p Regs.reset where
  adlA_lt := by decide
  adlB_lt := by decide
  mode_legal := by decide
  mode_unset := fun _ => rfl
  errCode_legal := rfl
  errSticky_iff := by decide
  frame_has_header := by decide
  frame_long_enough := by decide
  match_is_done := by decide
  strict_header := fun _ h => absurd h (by decide)
  verified_trailer := fun _ h => absurd h (by decide)
  params_wellFormed := hp

/-- Settles O49: the reset registers are legal, and legality does not read the inputs. -/
theorem resetIsLegal : Obligations.ResetIsLegal :=
  fun _ _ hp => legal_reset hp

namespace Legal

variable {p : Params} {r : Regs}

theorem setSums (h : Legal p r) {a b : Half} (ha : a.toNat < 65521) (hb : b.toNat < 65521) :
    Legal p { r with adlA := a, adlB := b } :=
  { h with adlA_lt := ha, adlB_lt := hb }

theorem selectMode (h : Legal p r) {m : BitVec 2} (hm : m ≠ 3) : Legal p { r with mode := m, encValid := true } :=
  { h with mode_legal := hm, mode_unset := nofun }

/-- HDR_CHECK's writes: a header that passes, and no frame (42_decode.md R77). -/
theorem openHeader (h : Legal p r) {hd : Half} (hok : hdrOk p hd = true) :
    Legal p { r with hdr := hd, hdrValid := true, trlDone := false, trlMatch := false, frameValid := false } :=
  { h with
    frame_has_header := nofun
    frame_long_enough := nofun
    match_is_done := nofun
    strict_header := fun hstrict _ => by simpa [hdrOk, hstrict, Regs.cmOkS, Regs.chkOkS] using hok
    verified_trailer := fun _ => nofun }

/-- A frame of at least the least length may be added to a valid header (10_state.md R21). -/
theorem openFrame (h : Legal p r) (hv : r.hdrValid = true) {len : Word} (hlen : minLen r.hdr ≤ len) :
    Legal p { r with frameLen := len, frameValid := true } :=
  { h with
    frame_has_header := fun _ => hv
    frame_long_enough := fun _ => minLen_toNat r.hdr ▸ BitVec.le_def.mp hlen }

/-- A completed check may be recorded when it matched, or when `VERIFY_TRAILER = 0` (42_decode.md R82). -/
theorem recordTrailer (h : Legal p r) {m : Bool} (hm : p.verifyTrailer = true → m = true) :
    Legal p { r with trlDone := true, trlMatch := m } :=
  { h with match_is_done := fun _ => rfl, verified_trailer := fun hv _ => hm hv }

theorem clearError (h : Legal p r) : Legal p { r with errCode := 0, errSticky := false } :=
  { h with errCode_legal := rfl, errSticky_iff := ⟨nofun, fun hne => absurd rfl hne⟩ }

theorem recordError (h : Legal p r) (e : Err) : Legal p { r with errCode := e.code, errSticky := true } :=
  { h with
    errCode_legal := by cases e <;> rfl
    errSticky_iff := ⟨fun _ => e.code_ne_zero, fun _ => rfl⟩ }

theorem dropFrame (h : Legal p r) :
    Legal p { r with hdrValid := false, frameValid := false, trlDone := false, trlMatch := false } :=
  { h with
    frame_has_header := nofun
    frame_long_enough := nofun
    match_is_done := nofun
    strict_header := fun _ => nofun
    verified_trailer := fun _ => nofun }

theorem afterError (h : Legal p r) (e : Err) : Legal p (Machine.afterError r e.code) := by
  unfold Machine.afterError
  split
  case isTrue => exact (h.recordError e).dropFrame
  case isFalse => exact h.recordError e

end Legal

/-- The writes of a request that succeeds keep the registers legal. -/
theorem writes_inv {s : State} {i : Instr} (h : s.Inv) (hs : Succeeds s i) : (writes s i).Inv := by
  cases i with
  | adlerInit => exact h.setSums (by decide) (by decide)
  | adlerAcc n w =>
    have hlt := foldBytes_lt (p := (s.regs.adlA.toNat, s.regs.adlB.toNat)) ⟨h.adlA_lt, h.adlB_lt⟩ (lanes w n)
    rw [← State.accumulate_sums] at hlt
    exact h.setSums hlt.1 hlt.2
  | encBegin m => exact (h.setSums (by decide) (by decide)).selectMode hs
  | hdrCheck cmf flg => exact h.openHeader hs
  | frameParse cmf flg len =>
    obtain ⟨hok, hlen⟩ := hs
    exact (h.openHeader hok).openFrame rfl hlen
  | trlCheck t => exact h.recordTrailer fun hv => beq_iff_eq.mpr (hs hv)
  | clrErr => exact h.clearError
  | softReset => exact legal_reset h.params_wellFormed
  | _ => exact h

/-- Whatever the host does, a legal state is left for a legal state. -/
theorem TakenTo.inv {s t : State} {x : HostInput} (h : TakenTo s x t) (hinv : s.Inv) : t.Inv := by
  cases h with
  | idle => exact hinv
  | reset | cutOff => exact legal_reset hinv.params_wellFormed
  | raised r e =>
    rw [State.Inv, State.raise_params, State.raise_regs]
    exact hinv.afterError e
  | done r i v hdec hs => exact writes_inv hinv hs

theorem step_inv {s t : State} (hinv : s.Inv) (hstep : step s = .next t) : t.Inv := by
  obtain ⟨t', ht', htaken⟩ := step_takenTo s
  obtain rfl : t' = t := Host.Outcome.next.inj (ht'.symm.trans hstep)
  exact htaken.inv (by simpa [State.Inv] using hinv)

/-- Settles O50: each outcome of a step keeps the invariant. -/
theorem stepKeepsLegal : Obligations.StepKeepsLegal :=
  fun _ _ => step_inv

/-- Every reachable state is legal. -/
theorem Reachable.inv {s : State} (h : Reachable s) : s.Inv := by
  induction h with
  | reset p inputs hp => exact legal_reset hp
  | step _ hstep ih => exact step_inv ih hstep

/-- Settles O51: the bounds are part of the invariant, and every step answers. -/
theorem sumsStayBelowTheModulus : Obligations.SumsStayBelowTheModulus := by
  intro s h
  obtain ⟨t, ht, -⟩ := step_takenTo s
  exact ⟨h.inv.adlA_lt, h.inv.adlB_lt, t, ht⟩

end Sys2Proof.Machine
end

section
/-! What the registers read after a reset (10_state.md R32). -/

namespace Sys2Proof.Machine

theorem readMap_reset (p : Params) {sel : ReadSel} (hadler : sel ≠ .adler) (hconfig : sel ≠ .config) :
    readMap p Regs.reset sel = 0 := by
  cases sel with
  | adler => exact absurd rfl hadler
  | config => exact absurd rfl hconfig
  | _ => rfl

/-- The command word 0x0000000D is SOFT_RESET, whatever the operand word (30_encoding.md R54). -/
theorem decode_softReset (opnd : Word) : decode ⟨0x0000000D, opnd⟩ = .ok .softReset :=
  decode_of_selects (row := ⟨.softReset, 0x0000000D, 0xFFFFFFFF⟩) (by decide) (by simp [OpRow.selects])

/-- Each form of reset gives the registers their reset values and keeps the parameters. -/
theorem step_of_reset {s : State} {x : HostInput} {rest : List HostInput} (hin : s.inputs = x :: rest)
    (hx : (∃ presented : Option Request, x = .reset presented) ∨ (∃ r : Request, x = .requestThenReset r)
      ∨ (∃ opnd : Word, x = .request ⟨0x0000000D, opnd⟩)) :
    ∃ t : State, step s = .next t ∧ t.regs = Regs.reset ∧ t.params = s.params := by
  rw [step_of_inputs hin]
  rcases hx with ⟨presented, rfl⟩ | ⟨r, rfl⟩ | ⟨opnd, rfl⟩
  · exact ⟨_, takeInput_reset _ presented, rfl, rfl⟩
  · exact ⟨_, takeInput_requestThenReset _ r, rfl, rfl⟩
  · exact ⟨_, serve_ok (decode_softReset opnd) _, rfl, rfl⟩

/-- Settles O43: the reset registers, read register by register and through the map. -/
theorem resetValues : Obligations.ResetValues := by
  intro s rest x hin hx
  obtain ⟨t, ht, hregs, hparams⟩ := step_of_reset hin hx
  refine ⟨t, ht, ?_⟩
  rw [hregs, hparams]
  exact ⟨rfl, rfl, rfl, rfl, rfl, rfl, rfl, rfl, rfl, rfl, rfl, rfl, rfl, fun _ => readMap_reset s.params, rfl⟩

end Sys2Proof.Machine
end

section
/-! What a request leaves out of its reach: the parameters, the inputs to come, and operand bits its format ignores
(20_memory.md R37, R40, R41; 30_encoding.md R51, R52). -/

namespace Sys2Proof.Machine

/-- The writes of a request stay within the registers. -/
theorem writes_eq (s : State) (i : Instr) : writes s i = { s with regs := (writes s i).regs } := by
  cases i <;> rfl

/-- Settles O11: a success writes registers and answers, and so does an error. -/
theorem everyInstructionCompletes : Obligations.EveryInstructionCompletes := by
  intro i s
  rcases exec_cases i s with ⟨-, v, hv⟩ | ⟨e, he⟩
  · exact ⟨(writes s i).regs, ⟨0, v⟩, by rw [hv, writes_eq]; rfl⟩
  · exact ⟨afterError s.regs e.code, ⟨e.code, 0⟩, by rw [he, State.raise_eq]⟩

/-- The first `n` stream bytes of a word are a function of its lanes 0 to `n - 1`. -/
theorem lanes_congr {n : Nat} {w w' : Word} (h : ∀ k < n, lane w k = lane w' k) : lanes w n = lanes w' n :=
  List.map_congr_left fun k hk => h k (List.mem_range.mp hk)

theorem operands_congr_of_not_usesOperand {op : Op} (h : ¬ Op.usesOperand op = true) (cmd opnd opnd' : Word) :
    op.operands cmd opnd = op.operands cmd opnd' := by
  cases op with
  | adlerAcc | frameParse | trlCheck => exact absurd rfl h
  | _ => rfl

/-- The decoder's map holds the words that the table of 30_encoding.md R54 prints. -/
theorem opcodeMap_matchMask : ∀ row ∈ opcodeMap, Op.matchMask row.op = (row.pattern, row.mask) := by
  decide

theorem matches_of_selects {row : OpRow} (hrow : row ∈ opcodeMap) {cmd : Word} (h : row.selects cmd = true) :
    Op.Matches row.op cmd := by
  rw [Op.Matches, opcodeMap_matchMask row hrow]
  exact beq_iff_eq.mp h

/-- A command word of no row that uses the operand word decodes alike with any two of them. -/
theorem decode_congr_of_not_usesOperand {cmd : Word} (h : ∀ o : Op, Op.usesOperand o = true → ¬ Op.Matches o cmd)
    (opnd opnd' : Word) : decode ⟨cmd, opnd⟩ = decode ⟨cmd, opnd'⟩ := by
  by_cases hs : ∃ row ∈ opcodeMap, row.selects cmd = true
  · obtain ⟨row, hrow, hsel⟩ := hs
    have hop : ¬ Op.usesOperand row.op = true := fun hu => h row.op hu (matches_of_selects hrow hsel)
    rw [decode_of_selects hrow hsel, decode_of_selects hrow hsel, operands_congr_of_not_usesOperand hop]
  · have hnone : ∀ row ∈ opcodeMap, row.selects cmd = false := by simpa using hs
    rw [decode_of_no_row hnone, decode_of_no_row hnone]

theorem serve_congr {r r' : Request} (h : decode r = decode r') (s : State) : serve r s = serve r' s := by
  rw [serve, serve, h]

/-- Settles O19: ADLER_ACC sees `w` through `lanes w n`, and a step sees the operand word through the decoder. -/
theorem ignoredOperandBitsHaveNoEffect : Obligations.IgnoredOperandBitsHaveNoEffect := by
  refine ⟨fun n w w' s _ _ hlanes => ?_, fun cmd opnd opnd' s hcmd => ?_⟩
  · have hw : lanes w n = lanes w' n := lanes_congr hlanes
    simp only [exec, execAdlerAcc, hw]
  · rw [step_offer, step_offer, takeInput_request, takeInput_request]
    exact serve_congr (decode_congr_of_not_usesOperand hcmd opnd opnd') s

end Sys2Proof.Machine
end

section
/-! Requests that only answer, repeated (20_memory.md R41). -/

namespace Sys2Proof.Machine

/-- An encoding selected by the request's own row decodes to that row's operands. -/
theorem decode_encode_eq_operands {i : Instr} (hrow : Laws.RowSelects.Statement i) (hwf : i.WellFormed = true) :
    decode (encode i) = .ok (i.op.operands (encode i).cmd (encode i).opnd) := by
  obtain ⟨row, hmem, hop, hsel⟩ := hrow hwf
  rw [decode_of_selects hmem hsel, hop]

theorem decode_encode_read (sel : ReadSel) : decode (encode (.read sel)) = .ok (.read sel) := by
  rw [decode_encode_eq_operands (Laws.RowSelects.read sel) rfl]
  cases sel <;> rfl

theorem decode_encode_hdrEmit : decode (encode .hdrEmit) = .ok .hdrEmit :=
  decode_encode_eq_operands Laws.RowSelects.hdrEmit rfl

theorem runRequests_cons {s t : State} {r : Request} (h : serve r s = .next t) (rs : List Request) :
    runRequests s (r :: rs) = (t.rsp.toList ++ (runRequests t rs).1, (runRequests t rs).2) :=
  run_cons (x := .request r) h (rs.map .request)

/-- A request that writes nothing and answers a function `v` of the parameters and the registers answers the same each
time it is repeated: its response is all that it changes, and `v` does not read that. -/
theorem runRequests_replicate {r : Request} {v : Params → Regs → Word}
    (h : ∀ s : State, serve r s = .next (s.respond (v s.params s.regs))) (k : Nat) (s : State) :
    (runRequests s (List.replicate k r)).1 = List.replicate k ⟨0, v s.params s.regs⟩
      ∧ (runRequests s (List.replicate k r)).2.regs = s.regs := by
  induction k generalizing s with
  | zero => exact ⟨rfl, rfl⟩
  | succ k ih =>
    obtain ⟨hanswers, hregs⟩ := ih (s.respond (v s.params s.regs))
    rw [List.replicate_succ, List.replicate_succ, runRequests_cons (h s)]
    exact ⟨congrArg (List.cons (Response.mk 0 (v s.params s.regs))) hanswers, hregs⟩

/-- Settles O37: READ and HDR_EMIT only answer, from the register map and from EMIT_HEADER. -/
theorem readsHaveNoSideEffect : Obligations.ReadsHaveNoSideEffect := by
  intro s sel k
  have hread (t : State) : serve (encode (.read sel)) t = .next (t.respond (readMap t.params t.regs sel)) :=
    serve_ok (decode_encode_read sel) t
  have hemit (t : State) : serve (encode .hdrEmit) t = .next (t.respond (t.params.emitHeader.setWidth 32)) :=
    serve_ok decode_encode_hdrEmit t
  obtain ⟨hreadRsp, hreadRegs⟩ := runRequests_replicate (v := fun p r => readMap p r sel) hread k s
  obtain ⟨hemitRsp, hemitRegs⟩ := runRequests_replicate (v := fun p _ => p.emitHeader.setWidth 32) hemit k s
  exact ⟨hreadRsp, hreadRegs, hemitRsp, hemitRegs⟩

end Sys2Proof.Machine
end

section
/-! The fields of a command word, read back from its encoding and put back into it (30_encoding.md R50, R59). -/

namespace Sys2Proof

/-- A field read at its own place. -/
@[simp] theorem extract_field_self {w : Nat} (v : BitVec w) {at' : Nat} (h : at' + w ≤ 32) :
    (field v at').extractLsb' at' w = v := by
  apply BitVec.eq_of_getLsbD_eq
  intro j hj
  simp [field, hj, show at' + j < 32 by omega]

/-- A field read at a place that it does not reach. -/
@[simp] theorem extract_field_disjoint {w w' : Nat} (v : BitVec w) {at' lo : Nat}
    (h : at' + w ≤ lo ∨ lo + w' ≤ at') : (field v at').extractLsb' lo w' = 0#w' := by
  apply BitVec.eq_of_getLsbD_eq
  intro j hj
  rcases h with h | h
  · simp [field, show w ≤ lo + j - at' by omega]
  · simp [field, show lo + j < at' by omega]

/-- One bit of a word, as a field of width 1. -/
theorem ofBool_getLsbD_eq_extract (cmd : Word) (j : Nat) : BitVec.ofBool (cmd.getLsbD j) = cmd.extractLsb' j 1 := by
  apply BitVec.eq_of_getLsbD_eq
  intro k hk
  obtain rfl : k = 0 := by omega
  simp

@[simp] theorem ReadSel.ofBits_bits (sel : ReadSel) : ReadSel.ofBits sel.bits = sel := by
  cases sel <;> rfl

@[simp] theorem ReadSel.bits_ofBits (b : BitVec 3) : (ReadSel.ofBits b).bits = b := by
  revert b
  decide

end Sys2Proof
end

section
/-! Decoding undoes encoding (30_encoding.md R54, R59). -/

namespace Sys2Proof.Machine

/-- Every request is selected by its own row: `Laws.RowSelects`, constructor by constructor. -/
theorem rowSelects (i : Instr) : Laws.RowSelects.Statement i := by
  cases i with
  | nop => exact Laws.RowSelects.nop
  | adlerInit => exact Laws.RowSelects.adlerInit
  | adlerAcc n w => exact Laws.RowSelects.adlerAcc n w
  | encBegin m => exact Laws.RowSelects.encBegin m
  | hdrEmit => exact Laws.RowSelects.hdrEmit
  | hdrMake cinfo flevel fd => exact Laws.RowSelects.hdrMake cinfo flevel fd
  | trlPack => exact Laws.RowSelects.trlPack
  | trlByte k => exact Laws.RowSelects.trlByte k
  | hdrCheck cmf flg => exact Laws.RowSelects.hdrCheck cmf flg
  | frameParse cmf flg len => exact Laws.RowSelects.frameParse cmf flg len
  | trlCheck t => exact Laws.RowSelects.trlCheck t
  | read sel => exact Laws.RowSelects.read sel
  | clrErr => exact Laws.RowSelects.clrErr
  | softReset => exact Laws.RowSelects.softReset

/-- The fields of a well-formed request are read back from its encoding. -/
theorem operands_encode {i : Instr} (hwf : i.WellFormed = true) :
    i.op.operands (encode i).cmd (encode i).opnd = i := by
  cases i with
  | adlerAcc n w =>
    obtain ⟨h1, h4⟩ : 1 ≤ n ∧ n ≤ 4 := by simpa [Instr.WellFormed] using hwf
    have hn : (n - 1) % 4 + 1 = n := by omega
    simp [Instr.op, Op.operands, encode, BitVec.extractLsb'_or, hn]
  | encBegin m | trlByte m | hdrCheck cmf flg | frameParse cmf flg len | read sel =>
    simp [Instr.op, Op.operands, encode, BitVec.extractLsb'_or]
  | hdrMake cinfo flevel fd =>
    have hfd : (encode (.hdrMake cinfo flevel fd)).cmd.getLsbD 10 = fd := by
      rw [← BitVec.ofBool_eq_iff_eq, ofBool_getLsbD_eq_extract]
      simp [encode, BitVec.extractLsb'_or]
    simp only [Instr.op, Op.operands, hfd]
    simp [encode, BitVec.extractLsb'_or]
  | _ => rfl

/-- Settles O1: the request's own row is selected, and reads the request's fields back. -/
theorem decodeEncodeRoundTrip : Obligations.DecodeEncodeRoundTrip := by
  intro i hwf
  rw [decode_encode_eq_operands (rowSelects i) hwf, operands_encode hwf]

end Sys2Proof.Machine
end

section
/-! Encoding undoes decoding (30_encoding.md R51, R54, R55). -/

namespace Sys2Proof.Machine

theorem op_operands (op : Op) (cmd opnd : Word) : (op.operands cmd opnd).op = op := by
  cases op <;> rfl

/-- What a row decodes is within every range of 30_encoding.md R50. -/
theorem operands_wellFormed (op : Op) (cmd opnd : Word) : (op.operands cmd opnd).WellFormed = true := by
  cases op with
  | adlerAcc =>
    have hn := (cmd.extractLsb' 8 2).isLt
    simp only [Op.operands, Instr.WellFormed, Bool.and_eq_true, decide_eq_true_eq]
    omega
  | _ => rfl

/-- The encoding keeps the operand word of the rows that use it (30_encoding.md R51). -/
theorem encode_operands_opnd (op : Op) (cmd opnd : Word) :
    (encode (op.operands cmd opnd)).opnd = if Op.usesOperand op then opnd else 0 := by
  cases op <;> rfl

/-- The fields of a row and its pattern make up a command word that the row matches (30_encoding.md R54). -/
theorem encode_operands_cmd {op : Op} {cmd : Word} (h : Op.Matches op cmd) (opnd : Word) :
    (encode (op.operands cmd opnd)).cmd = cmd := by
  cases op with
  | adlerAcc =>
    simp only [encode, Op.operands, Nat.add_sub_cancel, BitVec.ofNat_toNat, BitVec.setWidth_eq]
    rw [field_extract cmd 8 2 (by decide)]
    exact masked_or_rest h (by decide)
  | encBegin | trlByte =>
    simp only [encode, Op.operands]
    rw [field_extract cmd 8 2 (by decide)]
    exact masked_or_rest h (by decide)
  | hdrMake =>
    simp only [encode, Op.operands, ofBool_getLsbD_eq_extract, BitVec.or_assoc]
    rw [field_extract cmd 12 4 (by decide), field_extract cmd 10 1 (by decide), field_extract cmd 8 2 (by decide),
      ← BitVec.and_or_distrib_left, ← BitVec.and_or_distrib_left]
    exact masked_or_rest h (by decide)
  | hdrCheck | frameParse =>
    simp only [encode, Op.operands, BitVec.or_assoc]
    rw [field_extract cmd 16 8 (by decide), field_extract cmd 8 8 (by decide), ← BitVec.and_or_distrib_left]
    exact masked_or_rest h (by decide)
  | read =>
    simp only [encode, Op.operands, ReadSel.bits_ofBits]
    rw [field_extract cmd 8 3 (by decide)]
    exact masked_or_rest h (by decide)
  | _ => exact h.symm.trans BitVec.and_allOnes

/-- Settles O2: the request was decoded by a row that it matches, and that row's fields make up its words. -/
theorem encodeDecodeRoundTrip : Obligations.EncodeDecodeRoundTrip := by
  intro r i hdec
  obtain ⟨row, hrow, hsel, rfl⟩ := selects_of_decode hdec
  refine ⟨operands_wellFormed row.op r.cmd r.opnd, encode_operands_cmd (matches_of_selects hrow hsel) r.opnd, ?_⟩
  rw [encode_operands_opnd, op_operands]

end Sys2Proof.Machine
end

section
/-! The decoding algorithm (30_encoding.md R55), from the table of R54 to the step. -/

namespace Sys2Proof.Machine

/-- Every mnemonic of the table of 30_encoding.md R54 has its row in the decoder's map. -/
theorem exists_row (o : Op) : ∃ row ∈ opcodeMap, row.op = o := by
  cases o <;> decide

/-- The decoder's map selects what the table matches. -/
theorem exists_selects_of_matches {o : Op} {cmd : Word} (h : Op.Matches o cmd) :
    ∃ row ∈ opcodeMap, row.op = o ∧ row.selects cmd = true := by
  obtain ⟨row, hrow, rfl⟩ := exists_row o
  rw [Op.Matches, opcodeMap_matchMask row hrow] at h
  exact ⟨row, hrow, rfl, beq_iff_eq.mpr h⟩

/-- At most one row of the table matches a command word. -/
theorem op_eq_of_matches {o o' : Op} {cmd : Word} (h : Op.Matches o cmd) (h' : Op.Matches o' cmd) : o = o' := by
  obtain ⟨row, hrow, rfl, hsel⟩ := exists_selects_of_matches h
  obtain ⟨row', hrow', rfl, hsel'⟩ := exists_selects_of_matches h'
  rw [OpRow.eq_of_selects hrow hrow' hsel hsel']

theorem decode_of_matches {o : Op} {r : Request} (h : Op.Matches o r.cmd) :
    decode r = .ok (o.operands r.cmd r.opnd) := by
  obtain ⟨row, hrow, rfl, hsel⟩ := exists_selects_of_matches h
  exact decode_of_selects hrow hsel

/-- A command word that no row of the table matches is rejected, with an error that it alone determines. -/
theorem decode_of_no_match {r : Request} (h : ∀ o : Op, ¬ Op.Matches o r.cmd) :
    decode r = .error (if (opcodeOf r.cmd).toNat < opcodeMap.length then .reservedBit else .reservedOpcode) :=
  decode_of_no_row fun row hrow => Bool.eq_false_iff.mpr fun hsel => h row.op (matches_of_selects hrow hsel)

/-- The row that a request decodes to is a function of its command word. -/
theorem decode_op_congr (cmd opnd opnd' : Word) :
    (decode ⟨cmd, opnd⟩).map Instr.op = (decode ⟨cmd, opnd'⟩).map Instr.op := by
  by_cases h : ∃ o : Op, Op.Matches o cmd
  · obtain ⟨o, ho⟩ := h
    rw [decode_of_matches (r := ⟨cmd, opnd⟩) ho, decode_of_matches (r := ⟨cmd, opnd'⟩) ho]
    simp [Except.map, op_operands]
  · have hnone : ∀ o : Op, ¬ Op.Matches o cmd := not_exists.mp h
    rw [decode_of_no_match (r := ⟨cmd, opnd⟩) hnone, decode_of_no_match (r := ⟨cmd, opnd'⟩) hnone]

/-- Settles O3: the matching row is the one that the decoder selects; without one the request raises IllegalCommand. -/
theorem requestRunsTheRowThatMatches : Obligations.RequestRunsTheRowThatMatches := by
  intro s r rest hin
  refine ⟨fun _ _ => op_eq_of_matches, fun o ho => ?_, fun hnone => ?_,
    fun opnd => decode_op_congr r.cmd opnd r.opnd⟩
  · have hdec := decode_of_matches ho
    exact ⟨_, op_operands o r.cmd r.opnd, hdec, step_of_decoded_request hin hdec⟩
  · rw [step_of_inputs hin, takeInput_request, serve_error (decode_of_no_match hnone), State.raise_eq]
    rfl

end Sys2Proof.Machine
end

section
/-! The lines of the assembler and their words (30_encoding.md R59). -/

namespace Sys2Proof.Machine

/-- A field of a command word, as the number that 30_encoding.md R59 shifts into place. -/
theorem field_ofNat {w v : Nat} (hw : w ≤ 32) (hv : v < 2 ^ w) (at' : Nat) :
    field (BitVec.ofNat w v) at' = BitVec.ofNat 32 (v <<< at') := by
  have hv32 : v < 2 ^ 32 := hv.trans_le (Nat.pow_le_pow_right (by decide) hw)
  apply BitVec.eq_of_toNat_eq
  rw [field, BitVec.toNat_shiftLeft, BitVec.toNat_setWidth, BitVec.toNat_ofNat, BitVec.toNat_ofNat,
    Nat.mod_eq_of_lt hv, Nat.mod_eq_of_lt hv32]

/-- The bit `fd` of HDR_MAKE, as a field of width 1. -/
theorem ofBool_beq_one {fd : Nat} (h : fd < 2) : BitVec.ofBool (fd == 1) = BitVec.ofNat 1 fd := by
  interval_cases fd <;> rfl

/-- A line that stands for one request when its operands are in range has that request's words then, and none
otherwise. -/
theorem assemble_guarded {l : AsmLine} {inRange : Prop} [Decidable inRange] {i : Instr} {r : Request}
    (hexpand : l.expand = if inRange then some [i] else none) (hwords : inRange → encode i = r) :
    l.assemble = if inRange then some [r] else none := by
  rw [AsmLine.assemble, hexpand]
  split
  · next h => simp [hwords h]
  · rfl

theorem assemble_adlerAcc (n w : Nat) : (AsmLine.adlerAcc n w).assemble =
    if 1 ≤ n ∧ n ≤ 4 ∧ w < 2 ^ 32 then
      some [⟨BitVec.ofNat 32 (0x00000002 ||| (n - 1) <<< 8), BitVec.ofNat 32 w⟩]
    else none :=
  assemble_guarded rfl fun ⟨_, hn, _⟩ => by
    rw [encode, field_ofNat (by decide) (show n - 1 < 2 ^ 2 by omega), BitVec.ofNat_or]
    rfl

theorem assemble_encBegin (m : Nat) : (AsmLine.encBegin m).assemble =
    if m ≤ 3 then some [⟨BitVec.ofNat 32 (0x00000003 ||| m <<< 8), 0⟩] else none :=
  assemble_guarded rfl fun hm => by
    rw [encode, field_ofNat (by decide) (show m < 2 ^ 2 by omega), BitVec.ofNat_or]
    rfl

theorem assemble_hdrMake (cinfo flevel fd : Nat) : (AsmLine.hdrMake cinfo flevel fd).assemble =
    if cinfo < 16 ∧ flevel < 4 ∧ fd < 2 then
      some [⟨BitVec.ofNat 32 (0x00000005 ||| cinfo <<< 12 ||| fd <<< 10 ||| flevel <<< 8), 0⟩]
    else none :=
  assemble_guarded rfl fun ⟨hcinfo, hflevel, hfd⟩ => by
    rw [encode, ofBool_beq_one hfd, field_ofNat (by decide) hcinfo, field_ofNat (by decide) hfd,
      field_ofNat (by decide) hflevel, BitVec.ofNat_or, BitVec.ofNat_or, BitVec.ofNat_or]
    rfl

theorem assemble_trlByte (k : Nat) : (AsmLine.trlByte k).assemble =
    if k ≤ 3 then some [⟨BitVec.ofNat 32 (0x00000007 ||| k <<< 8), 0⟩] else none :=
  assemble_guarded rfl fun hk => by
    rw [encode, field_ofNat (by decide) (show k < 2 ^ 2 by omega), BitVec.ofNat_or]
    rfl

theorem assemble_hdrCheck (cmf flg : Nat) : (AsmLine.hdrCheck cmf flg).assemble =
    if cmf < 256 ∧ flg < 256 then some [⟨BitVec.ofNat 32 (0x00000008 ||| cmf <<< 16 ||| flg <<< 8), 0⟩]
    else none :=
  assemble_guarded rfl fun ⟨hcmf, hflg⟩ => by
    rw [encode, field_ofNat (by decide) hcmf, field_ofNat (by decide) hflg, BitVec.ofNat_or, BitVec.ofNat_or]
    rfl

theorem assemble_frameParse (cmf flg len : Nat) : (AsmLine.frameParse cmf flg len).assemble =
    if cmf < 256 ∧ flg < 256 ∧ len < 2 ^ 32 then
      some [⟨BitVec.ofNat 32 (0x00000009 ||| cmf <<< 16 ||| flg <<< 8), BitVec.ofNat 32 len⟩]
    else none :=
  assemble_guarded rfl fun ⟨hcmf, hflg, _⟩ => by
    rw [encode, field_ofNat (by decide) hcmf, field_ofNat (by decide) hflg, BitVec.ofNat_or, BitVec.ofNat_or]
    rfl

theorem assemble_trlCheck (w : Nat) : (AsmLine.trlCheck w).assemble =
    if w < 2 ^ 32 then some [⟨0x0000000A, BitVec.ofNat 32 w⟩] else none :=
  assemble_guarded rfl fun _ => rfl

theorem assemble_read (sel : Nat) : (AsmLine.read sel).assemble =
    if sel ≤ 7 then some [⟨BitVec.ofNat 32 (0x0000000B ||| sel <<< 8), 0⟩] else none :=
  assemble_guarded rfl fun hsel => by
    rw [encode, ReadSel.bits_ofBits, field_ofNat (by decide) (show sel < 2 ^ 3 by omega), BitVec.ofNat_or]
    rfl

/-- Settles O6: the lines with operands one by one; the others, and the named operands, are closed terms. -/
theorem assemblerWords : Obligations.AssemblerWords :=
  ⟨rfl, rfl, assemble_adlerAcc, assemble_encBegin, rfl, rfl, rfl, rfl, assemble_hdrMake, rfl, assemble_trlByte,
    assemble_hdrCheck, assemble_frameParse, assemble_trlCheck, assemble_read, rfl, rfl, rfl, rfl, rfl, rfl, rfl, rfl,
    rfl, rfl⟩

end Sys2Proof.Machine
end

section
/-! The pseudo-instructions of the assembler (30_encoding.md R60). -/

namespace Sys2Proof.Machine

/-- Four bytes packed into lanes are the number that the expansions of 30_encoding.md R60 write. -/
theorem packLanes_ofNat_toNat {b0 b1 b2 b3 : Nat} (h0 : b0 < 256) (h1 : b1 < 256) (h2 : b2 < 256) (h3 : b3 < 256) :
    (packLanes (BitVec.ofNat 8 b0) (BitVec.ofNat 8 b1) (BitVec.ofNat 8 b2) (BitVec.ofNat 8 b3)).toNat =
      b0 <<< 24 ||| b1 <<< 16 ||| b2 <<< 8 ||| b3 := by
  simp only [packLanes, BitVec.toNat_append, BitVec.toNat_ofNat, Nat.mod_eq_of_lt (show b0 < 2 ^ 8 from h0),
    Nat.mod_eq_of_lt (show b1 < 2 ^ 8 from h1), Nat.mod_eq_of_lt (show b2 < 2 ^ 8 from h2),
    Nat.mod_eq_of_lt (show b3 < 2 ^ 8 from h3), Nat.shiftLeft_or_distrib, ← Nat.shiftLeft_add]

/-- ADLER_ACC with its operand word given as a number stands for the request with that word. -/
theorem expand_adlerAcc {n v : Nat} {w : Word} (hn : 1 ≤ n ∧ n ≤ 4) (hw : w.toNat = v) :
    (AsmLine.adlerAcc n v).expand = some [.adlerAcc n w] := by
  subst hw
  rw [AsmLine.expand, if_pos ⟨hn.1, hn.2, w.isLt⟩, BitVec.ofNat_toNat, BitVec.setWidth_eq]

/-- The lanes of a packed word are the bytes packed, lane 0 first. -/
theorem lanes_packLanes (b0 b1 b2 b3 : Byte) {n : Nat} (hn : n ≤ 4) :
    lanes (packLanes b0 b1 b2 b3) n = [b0, b1, b2, b3].take n := by
  obtain ⟨h0, h1, h2, h3⟩ := lane_packLanes b0 b1 b2 b3
  have hfour : (List.range 4).map (lane (packLanes b0 b1 b2 b3)) = [b0, b1, b2, b3] := by
    simp [List.range_succ, h0, h1, h2, h3]
  rw [← hfour, ← List.map_take, List.take_range, Nat.min_eq_left hn, lanes]

/-- The chunks `cs` present `bytes` as ACCS does (30_encoding.md R60). -/
structure PresentsInOrder (bytes : List Byte) (cs : List Chunk) : Prop where
  requests : accChunks bytes = cs.map (fun c => .adlerAcc c.n c.w)
  carried : chunkBytes cs = bytes
  count : cs.length = (bytes.length + 3) / 4
  full : ∀ c ∈ cs.dropLast, c.n = 4
  wellFormed : ∀ c ∈ cs, c.WellFormed = true

namespace PresentsInOrder

theorem nil : PresentsInOrder [] [] :=
  ⟨rfl, rfl, rfl, by simp, by simp⟩

/-- One request with all the bytes. -/
theorem last {bytes : List Byte} {n : Nat} {w : Word} (hrequest : accChunks bytes = [.adlerAcc n w])
    (hlanes : lanes w n = bytes) (hn : 1 ≤ n ∧ n ≤ 4) : PresentsInOrder bytes [⟨n, w⟩] where
  requests := hrequest
  carried := by simpa [chunkBytes] using hlanes
  count := by
    have hlength : bytes.length = n := by rw [← hlanes, lanes, List.length_map, List.length_range]
    rw [hlength, List.length_singleton]
    omega
  full := by simp
  wellFormed := by simpa [Chunk.WellFormed] using hn

/-- One request with four bytes, then the rest. -/
theorem cons {bytes : List Byte} {cs : List Chunk} (h : PresentsInOrder bytes cs) (b0 b1 b2 b3 : Byte) :
    PresentsInOrder (b0 :: b1 :: b2 :: b3 :: bytes) (⟨4, packLanes b0 b1 b2 b3⟩ :: cs) where
  requests := by rw [accChunks, h.requests, List.map_cons]
  carried := by
    have hlanes : lanes (packLanes b0 b1 b2 b3) 4 = [b0, b1, b2, b3] := lanes_packLanes b0 b1 b2 b3 (Nat.le_refl 4)
    have hrest : cs.flatMap (fun c => lanes c.w c.n) = bytes := h.carried
    rw [chunkBytes, List.flatMap_cons, hlanes, hrest]
    rfl
  count := by
    simp only [List.length_cons, h.count]
    omega
  full := by
    cases cs with
    | nil => simp
    | cons d ds => simpa using h.full
  wellFormed := by simpa [Chunk.WellFormed] using h.wellFormed

end PresentsInOrder

/-- `accChunks` cuts any bytes into such chunks. -/
theorem exists_presentsInOrder (bytes : List Byte) : ∃ cs : List Chunk, PresentsInOrder bytes cs := by
  induction bytes using accChunks.induct with
  | case1 b0 b1 b2 b3 rest ih =>
    obtain ⟨cs, hcs⟩ := ih
    exact ⟨_, hcs.cons b0 b1 b2 b3⟩
  | case2 b0 b1 b2 => exact ⟨_, .last rfl (lanes_packLanes b0 b1 b2 0 (by decide)) (by decide)⟩
  | case3 b0 b1 => exact ⟨_, .last rfl (lanes_packLanes b0 b1 0 0 (by decide)) (by decide)⟩
  | case4 b0 => exact ⟨_, .last rfl (lanes_packLanes b0 0 0 0 (by decide)) (by decide)⟩
  | case5 => exact ⟨_, .nil⟩

theorem expand_accs {text : List Char} (h : ∀ c ∈ text, c.toNat < 128) :
    (AsmLine.accs text).expand = some (accChunks (text.map (fun c => BitVec.ofNat 8 c.toNat))) :=
  if_pos (List.all_eq_true.mpr fun c hc => decide_eq_true (h c hc))

theorem expand_acc1 {b0 : Nat} (h0 : b0 < 256) :
    (AsmLine.acc1 b0).expand = (AsmLine.adlerAcc 1 (b0 <<< 24)).expand := by
  have hw := packLanes_ofNat_toNat h0 (b1 := 0) (b2 := 0) (b3 := 0) (by decide) (by decide) (by decide)
  rw [expand_adlerAcc (by decide) (by simpa using hw)]
  exact if_pos h0

theorem expand_acc2 {b0 b1 : Nat} (h0 : b0 < 256) (h1 : b1 < 256) :
    (AsmLine.acc2 b0 b1).expand = (AsmLine.adlerAcc 2 (b0 <<< 24 ||| b1 <<< 16)).expand := by
  have hw := packLanes_ofNat_toNat h0 h1 (b2 := 0) (b3 := 0) (by decide) (by decide)
  rw [expand_adlerAcc (by decide) (by simpa using hw)]
  exact if_pos ⟨h0, h1⟩

theorem expand_acc3 {b0 b1 b2 : Nat} (h0 : b0 < 256) (h1 : b1 < 256) (h2 : b2 < 256) :
    (AsmLine.acc3 b0 b1 b2).expand = (AsmLine.adlerAcc 3 (b0 <<< 24 ||| b1 <<< 16 ||| b2 <<< 8)).expand := by
  have hw := packLanes_ofNat_toNat h0 h1 h2 (b3 := 0) (by decide)
  rw [expand_adlerAcc (by decide) (by simpa using hw)]
  exact if_pos ⟨h0, h1, h2⟩

theorem expand_acc4 {b0 b1 b2 b3 : Nat} (h0 : b0 < 256) (h1 : b1 < 256) (h2 : b2 < 256) (h3 : b3 < 256) :
    (AsmLine.acc4 b0 b1 b2 b3).expand =
      (AsmLine.adlerAcc 4 (b0 <<< 24 ||| b1 <<< 16 ||| b2 <<< 8 ||| b3)).expand := by
  rw [expand_adlerAcc (by decide) (packLanes_ofNat_toNat h0 h1 h2 h3)]
  exact if_pos ⟨h0, h1, h2, h3⟩

/-- Settles O7: the bytes of ACC1 to ACC4 are one packed word, and ACCS presents its text chunk by chunk. -/
theorem pseudoInstructionsExpand : Obligations.PseudoInstructionsExpand := by
  refine ⟨fun _ => expand_acc1, fun _ _ => expand_acc2, fun _ _ _ => expand_acc3, fun _ _ _ _ => expand_acc4,
    fun text htext => ?_, rfl, rfl, rfl⟩
  obtain ⟨cs, hcs⟩ := exists_presentsInOrder (text.map (fun c => BitVec.ofNat 8 c.toNat))
  refine ⟨cs, ?_, hcs.carried, ?_, hcs.full, hcs.wellFormed⟩
  · rw [expand_accs htext, hcs.requests]
  · rw [hcs.count, List.length_map]

end Sys2Proof.Machine
end

section
/-! Every accepted request is answered (30_encoding.md R46; 70_reset_and_hazards.md R107, R119, R120). -/

namespace Sys2Proof.Machine

/-- Taking an input leaves the later inputs as they are. -/
theorem TakenTo.inputs {s t : State} {x : HostInput} (h : TakenTo s x t) : t.inputs = s.inputs := by
  cases h with
  | idle | reset | cutOff => rfl
  | raised r e => exact State.raise_inputs s e
  | done r i v => rw [State.respond_inputs, writes_eq]

/-- A response is presented exactly for a request that no reset cuts off. -/
theorem TakenTo.rsp_isSome_iff {s t : State} {x : HostInput} (h : TakenTo s x t) :
    t.rsp.isSome = true ↔ ∃ r : Request, x = .request r := by
  cases h with
  | idle | reset | cutOff => simp
  | raised | done => simp

@[simp] theorem State.nextInput_inputs (s : State) : s.nextInput.2.inputs = s.inputs.tail := by
  unfold State.nextInput
  split
  · next h => rw [h]; rfl
  · next h => rw [h]; rfl

theorem State.nextInput_eq_request_iff (s : State) (r : Request) :
    s.nextInput.1 = .request r ↔ ∃ rest : List HostInput, s.inputs = .request r :: rest := by
  unfold State.nextInput
  split
  · next h => simp [h]
  · next h => simp [h]

/-- A run over requests yields one response for each. -/
theorem runRequests_length (s : State) (rs : List Request) : (runRequests s rs).1.length = rs.length := by
  induction rs generalizing s with
  | nil => rfl
  | cons r rs ih =>
    obtain ⟨t, hserve, htaken⟩ := serve_takenTo r s
    have hone : t.rsp.toList.length = 1 := by
      rw [Option.length_toList, if_pos (htaken.rsp_isSome_iff.mpr ⟨r, rfl⟩)]
    rw [runRequests_cons hserve, List.length_append, hone, ih, List.length_cons, Nat.add_comm]

/-- Settles O10: the outcomes of a step say when it answers, and a run is one answered request after another. -/
theorem everyRequestIsAnswered : Obligations.EveryRequestIsAnswered := by
  refine ⟨fun s => ?_, runRequests_length⟩
  obtain ⟨t, hstep, htaken⟩ := step_takenTo s
  refine ⟨t, hstep, htaken.inputs.trans s.nextInput_inputs, ?_⟩
  rw [htaken.rsp_isSome_iff]
  exact exists_congr s.nextInput_eq_request_iff

end Sys2Proof.Machine
end

section
/-! Words printed in the spec (30_encoding.md R59; 95_test_vectors.md L2, L3), and the status outputs
(30_encoding.md R48). -/

namespace Sys2Proof.Machine

/-- Settles O5: nine closed requests, each run through the decoder. -/
theorem printedWordsDecode : Obligations.PrintedWordsDecode := by
  unfold Obligations.PrintedWordsDecode
  decide

/-- Settles O42: EFFORT is ENC_VALID with a mode other than BestSpeed, and the other outputs are registers. -/
theorem statusOutputs : Obligations.StatusOutputs := by
  intro r
  exact ⟨r.effort_eq, rfl, rfl, rfl⟩

end Sys2Proof.Machine
end

section
/-! A row of the opcode map as a `DecodesAs` statement (30_encoding.md R51, R54, R55). -/

namespace Sys2Proof.Machine

/-- A row whose mask is the opcode byte and the bits `z` decodes the words of its opcode in which those bits are 0, and no
other row selects the rest. -/
theorem decodesAs_of_row {row : OpRow} (hrow : row ∈ opcodeMap) {opc : Byte} {z : Word}
    {build : Word → Word → Instr} (hpattern : opc.setWidth 32 = row.pattern) (hmask : row.mask = z ||| 0xFF)
    (hz : z &&& 0xFF = 0) (hbuild : ∀ cmd opnd : Word, cmd &&& z = 0 → row.op.operands cmd opnd = build cmd opnd) :
    DecodesAs opc z build := by
  intro cmd opnd hopc
  have hbyte : cmd &&& 0xFF = row.pattern := (opcode_masked hopc).trans hpattern
  have hselects : row.selects cmd = true ↔ cmd &&& z = 0 := OpRow.selects_iff_zero_bits hmask hz hbyte
  by_cases h0 : cmd &&& z = 0
  · rw [if_pos h0, decode_of_selects hrow (hselects.mpr h0), hbuild cmd opnd h0]
  · have hnone : ∀ row' ∈ opcodeMap, row'.selects cmd = false := by
      intro row' hrow'
      refine Bool.eq_false_iff.mpr fun hsel' => h0 (hselects.mp ?_)
      have hsame : row'.pattern = row.pattern := (OpRow.pattern_of_selects hrow' hsel').trans hbyte
      rwa [← opcodeMap_patterns_distinct row' hrow' row hrow hsame]
    have hdefined : (opcodeOf cmd).toNat < opcodeMap.length := by
      have hlt : (opc.setWidth 32).toNat < opcodeMap.length := hpattern ▸ (opcodeMap_masks row hrow).2.2
      rwa [BitVec.toNat_setWidth_of_le (by decide), ← hopc] at hlt
    rw [if_neg h0, decode_of_no_row hnone, if_pos hdefined]

/-- A word that is 0 from bit `k` on is below `2 ^ k`. -/
theorem toNat_lt_of_masked_zero {cmd mask : Word} {k : Nat} (hk : k ≤ 32)
    (hmask : mask ||| BitVec.ofNat 32 (2 ^ k - 1) = BitVec.allOnes 32) (h : cmd &&& mask = 0) : cmd.toNat < 2 ^ k := by
  have hle : 2 ^ k ≤ 2 ^ 32 := Nat.pow_le_pow_right (by decide) hk
  have hpos : 0 < 2 ^ k := Nat.two_pow_pos k
  have hlow : cmd &&& BitVec.ofNat 32 (2 ^ k - 1) = cmd := by simpa using masked_or_rest h hmask
  rw [← hlow, BitVec.toNat_and, BitVec.toNat_ofNat]
  exact Nat.and_lt_two_pow _ (lt_of_le_of_lt (Nat.mod_le _ _) (by omega))

end Sys2Proof.Machine
end

section
/-! The Adler-32 accumulator, one request at a time (40_adler.md R61, R62, R66). -/

namespace Sys2Proof.Machine

@[simp] theorem startSums_adler (s : State) : s.startSums.regs.adler = 1 :=
  show (Config.bInit ++ Config.aInit : Word) = 1 by decide

theorem exec_adlerInit (s : State) : exec .adlerInit s = .next (s.startSums.respond 1) := by
  rw [← startSums_adler s]
  rfl

theorem exec_adlerAcc (n : Nat) (w : Word) (s : State) : exec (.adlerAcc n w) s =
    .next ((s.accumulate (lanes w n)).respond (s.accumulate (lanes w n)).regs.adler) := rfl

/-- Settles O13: the row has no operands, and ADLER_INIT starts the sums and answers them joined. -/
theorem adlerInitStartsAChecksum : Obligations.AdlerInitStartsAChecksum := by
  refine ⟨?_, exec_adlerInit⟩
  exact decodesAs_of_row (row := ⟨.adlerInit, 0x00000001, 0xFFFFFFFF⟩) (by decide) (by decide) (by decide) (by decide)
    fun _ _ _ => rfl

theorem decodesAs_adlerAcc : DecodesAs 0x02 0xFFFFFC00 (fun cmd opnd => .adlerAcc (cmd.toNat / 256 + 1) opnd) := by
  refine decodesAs_of_row (row := ⟨.adlerAcc, 0x00000002, 0xFFFFFCFF⟩) (by decide) (by decide) (by decide) (by decide)
    fun cmd opnd h0 => ?_
  have hlt : cmd.toNat < 2 ^ 10 := toNat_lt_of_masked_zero (by decide) (by decide) h0
  have hcount : (cmd.extractLsb' 8 2).toNat = cmd.toNat / 256 := by
    rw [extract_eq_ofNat, BitVec.toNat_ofNat]
    omega
  rw [Op.operands, hcount]

/-- Each sum register after an accumulation, as a number. -/
theorem State.accumulate_toNat (s : State) (xs : List Byte) :
    (s.accumulate xs).regs.adlA.toNat = (calculateFrom s.regs.adlA.toNat s.regs.adlB.toNat xs).1
      ∧ (s.accumulate xs).regs.adlB.toNat = (calculateFrom s.regs.adlA.toNat s.regs.adlB.toNat xs).2 := by
  rw [← foldBytes_eq_calculateFrom, ← s.accumulate_sums xs]
  exact ⟨rfl, rfl⟩

/-- After one byte or more both sum registers are below the modulus. -/
theorem State.accumulate_lt (s : State) {xs : List Byte} (h : xs ≠ []) :
    (s.accumulate xs).regs.adlA.toNat < 65521 ∧ (s.accumulate xs).regs.adlB.toNat < 65521 := by
  obtain ⟨hA, hB⟩ := s.accumulate_toNat xs
  rw [hA, hB, ← foldBytes_eq_calculateFrom]
  exact foldBytes_lt_of_ne_nil _ h

/-- No error writes the sums (60_exceptions.md R96). -/
theorem State.raise_sums (s : State) (e : Err) :
    (s.raise e).regs.adlA = s.regs.adlA ∧ (s.raise e).regs.adlB = s.regs.adlB := by
  obtain ⟨hA, hB, -⟩ := afterError_frame s.regs e.code
  rw [State.raise_regs]
  exact ⟨hA, hB⟩

/-- A request that answers an error leaves the sums as they were (60_exceptions.md R96). -/
theorem exec_error_keeps_sums (i : Instr) (s : State) : ∃ (t : State) (p : Response), exec i s = .next t
    ∧ t.rsp = some p ∧ (p.err ≠ 0 → t.regs.adlA = s.regs.adlA ∧ t.regs.adlB = s.regs.adlB) := by
  rcases exec_cases i s with ⟨-, v, hv⟩ | ⟨e, he⟩
  · exact ⟨_, ⟨0, v⟩, hv, rfl, fun herr => absurd rfl herr⟩
  · exact ⟨_, ⟨e.code, 0⟩, he, State.raise_rsp s e, fun _ => s.raise_sums e⟩

/-- Settles O14: an accumulation writes the two sums alone, and they are the loop of the source over the lanes. -/
theorem adlerAccFoldsTheLanes : Obligations.AdlerAccFoldsTheLanes := by
  refine ⟨decodesAs_adlerAcc, fun n w s hn _ => ?_, exec_error_keeps_sums⟩
  refine ⟨_, _, exec_adlerAcc n w s, ?_, s.accumulate_lt (lanes_ne_nil w hn)⟩
  obtain ⟨hA, hB⟩ := s.accumulate_toNat (lanes w n)
  exact Prod.ext hA hB

/-- A request outside the writers of the sums keeps them, whether it succeeds or raises (10_state.md R15). -/
theorem exec_keeps_sums {i : Instr} (h : i.op ∉ [Op.adlerInit, .adlerAcc, .encBegin, .softReset]) (s : State) :
    ∃ t : State, exec i s = .next t ∧ t.regs.adlA = s.regs.adlA ∧ t.regs.adlB = s.regs.adlB := by
  rcases exec_cases i s with ⟨-, v, hv⟩ | ⟨e, he⟩
  · exact ⟨_, hv, writes_sums h⟩
  · exact ⟨_, he, s.raise_sums e⟩

/-- An accumulation sees nothing of the state but the sums. -/
theorem State.accumulate_sums_congr {s t : State} (hA : s.regs.adlA = t.regs.adlA) (hB : s.regs.adlB = t.regs.adlB)
    (xs : List Byte) : (s.accumulate xs).regs.adlA = (t.accumulate xs).regs.adlA
      ∧ (s.accumulate xs).regs.adlB = (t.accumulate xs).regs.adlB := by
  simp only [State.accumulate, hA, hB, State.setSums_regs, and_self]

/-- Settles O18: a writer of the sums sets them to constants or from the sums, and any other request keeps them. -/
theorem sumsDependOnlyOnSums : Obligations.SumsDependOnlyOnSums := by
  intro i s t hA hB
  by_cases hop : i.op ∈ [Op.adlerInit, .adlerAcc, .encBegin, .softReset]
  · cases i with
    | adlerInit | softReset => exact ⟨_, _, rfl, rfl, rfl, rfl⟩
    | adlerAcc n w => exact ⟨_, _, exec_adlerAcc n w s, exec_adlerAcc n w t, State.accumulate_sums_congr hA hB _⟩
    | encBegin m =>
      by_cases hm : m = 3
      · subst hm
        exact ⟨_, _, rfl, rfl, hA, hB⟩
      · refine ⟨_, _, rfl, rfl, ?_⟩
        rw [if_neg hm, if_neg hm]
        exact ⟨rfl, rfl⟩
    | _ => simp [Instr.op] at hop
  · obtain ⟨s', hs, hsA, hsB⟩ := exec_keeps_sums hop s
    obtain ⟨t', ht, htA, htB⟩ := exec_keeps_sums hop t
    exact ⟨s', t', hs, ht, hsA.trans (hA.trans htA.symm), hsB.trans (hB.trans htB.symm)⟩

end Sys2Proof.Machine
end

section
/-! The 17-bit datapath (40_adler.md R63). -/

namespace Sys2Proof.Machine

theorem addModAdler_lt (x y : Nat) : addModAdler x y < 65521 :=
  Nat.mod_lt _ (by decide)

/-- A 17-bit addition and one conditional subtraction of the modulus: what `byteStep17` does for each sum. -/
def addReduce17 (x y : BitVec 17) : BitVec 17 :=
  if 65521 ≤ x + y then x + y - 65521 else x + y

theorem byteStep17_eq (a b : Half) (byte : Byte) : byteStep17 a b byte =
    ((addReduce17 (a.setWidth 17) (byte.setWidth 17)).setWidth 16,
      (addReduce17 (b.setWidth 17) (addReduce17 (a.setWidth 17) (byte.setWidth 17))).setWidth 16) := rfl

/-- Below twice the modulus nothing overflows, and the one subtraction is the whole reduction. -/
theorem addReduce17_toNat {x y : BitVec 17} {m n : Nat} (hx : x.toNat = m) (hy : y.toNat = n)
    (h : m + n < 2 * 65521) : (addReduce17 x y).toNat = addModAdler m n := by
  have hsum : (x + y).toNat = m + n := by rw [BitVec.toNat_add_of_lt (by omega), hx, hy]
  have hle : 65521 ≤ x + y ↔ 65521 ≤ m + n := hsum ▸ BitVec.le_def
  rw [addReduce17, addModAdler, Config.modAdler]
  split
  · next hge =>
    have hsub : (x + y - 65521).toNat = (x + y).toNat - 65521 := BitVec.toNat_sub_of_le hge
    have hge' : 65521 ≤ m + n := hle.mp hge
    omega
  · next hlt =>
    have hlt' : ¬ 65521 ≤ m + n := fun hge => hlt (hle.mpr hge)
    omega

/-- The datapath's byte step is the exact one, for sums in range. -/
theorem byteStep17_toNat {a b : Half} (byte : Byte) (ha : a.toNat < 65521) (hb : b.toNat < 65521) :
    ((byteStep17 a b byte).1.toNat, (byteStep17 a b byte).2.toNat) = foldByte (a.toNat, b.toNat) byte := by
  have hbyte : byte.toNat < 256 := byte.isLt
  have widen {w : Nat} (v : BitVec w) (hw : w ≤ 17) : (v.setWidth 17).toNat = v.toNat := BitVec.toNat_setWidth_of_le hw
  have narrow {v : BitVec 17} {m n : Nat} (hv : v.toNat = addModAdler m n) :
      (v.setWidth 16).toNat = addModAdler m n := by
    have hlt := addModAdler_lt m n
    rw [BitVec.toNat_setWidth, hv, Nat.mod_eq_of_lt (by omega)]
  have hA_lt := addModAdler_lt a.toNat byte.toNat
  have hA := addReduce17_toNat (widen a (by decide)) (widen byte (by decide)) (by omega)
  have hB := addReduce17_toNat (widen b (by decide)) hA (by omega)
  rw [byteStep17_eq, narrow hA, narrow hB]
  rfl

/-- Settles O15: both sums stay below twice the modulus, so one conditional subtraction reduces each. -/
theorem conditionalSubtractionSuffices : Obligations.ConditionalSubtractionSuffices := by
  intro a b byte ha hb
  have hbyte : byte.toNat < 256 := byte.isLt
  have ha' : (a.toNat + byte.toNat) % 65521 < 65521 := Nat.mod_lt _ (by decide)
  exact ⟨by omega, by omega, (byteStep17_toNat byte ha hb).symm⟩

end Sys2Proof.Machine
end

section
/-! ADLER_ACC over a byte sequence, however it is cut into requests (40_adler.md R64, R65). -/

namespace Sys2Proof.Machine

theorem serve_adlerInit (s : State) : serve (encode .adlerInit) s = .next (s.startSums.respond 1) :=
  (serve_ok (decodeEncodeRoundTrip .adlerInit rfl) s).trans (exec_adlerInit s)

theorem serve_adlerAcc {c : Chunk} (hc : c.WellFormed = true) (s : State) :
    serve (encode (.adlerAcc c.n c.w)) s =
      .next ((s.accumulate (lanes c.w c.n)).respond (s.accumulate (lanes c.w c.n)).regs.adler) :=
  (serve_ok (decodeEncodeRoundTrip (.adlerAcc c.n c.w) hc) s).trans (exec_adlerAcc c.n c.w s)

/-- A run over chunks accumulates the bytes they carry: the responses in between are not read. -/
theorem runRequests_accRequests {cs : List Chunk} (hcs : ∀ c ∈ cs, c.WellFormed = true) (s : State) :
    (runRequests s (accRequests cs)).2.regs = (s.accumulate (chunkBytes cs)).regs := by
  induction cs generalizing s with
  | nil => simp [accRequests, runRequests, chunkBytes, State.accumulate, foldBytes]
  | cons c cs ih =>
    obtain ⟨hc, hrest⟩ := List.forall_mem_cons.mp hcs
    have hbytes : chunkBytes (c :: cs) = lanes c.w c.n ++ chunkBytes cs := List.flatMap_cons
    have hrun := runRequests_cons (serve_adlerAcc hc s) (accRequests cs)
    rw [hbytes, ← State.accumulate_append, accRequests, List.map_cons, ← accRequests, hrun]
    exact ih hrest _

/-- Settles O16: either run accumulates the one byte sequence. -/
theorem chunkingDoesNotMatter : Obligations.ChunkingDoesNotMatter := by
  intro s cs ds hcs hds hbytes
  rw [runRequests_accRequests hcs, runRequests_accRequests hds, hbytes]

/-- An accumulation from the starting sums leaves the checksum of its bytes. -/
theorem accumulate_startSums_adler (s : State) (xs : List Byte) :
    (s.startSums.accumulate xs).regs.adler.toNat = calculate xs := by
  obtain ⟨hA, hB⟩ := s.startSums.accumulate_toNat xs
  rw [Regs.adler, halves_toNat, hA, hB]
  rfl

/-- Settles O17: ADLER_INIT starts the sums, and the run over the chunks accumulates their bytes from there. -/
theorem accumulatorComputesCalculate : Obligations.AccumulatorComputesCalculate := by
  intro s cs hcs
  refine ⟨_, _, ?_, accumulate_startSums_adler s (chunkBytes cs)⟩
  rw [runRequests_cons (serve_adlerInit s), runRequests_accRequests hcs]
  rfl

end Sys2Proof.Machine
end

section
/-! The formatting requests, one at a time: encoding, response and writes (41_encode.md R67 to R72). -/

namespace Sys2Proof.Machine

theorem exec_encBegin {m : BitVec 2} (hm : m ≠ 3) (s : State) : exec (.encBegin m) s =
    .next ((s.startSums.selectMode m).respond (s.params.emitHeader.setWidth 32)) := by
  rw [exec, execEncBegin, if_neg hm]

theorem exec_encBegin_three (s : State) : exec (.encBegin 3) s = .next (s.raise .invalidArgument) := rfl

theorem exec_hdrEmit (s : State) : exec .hdrEmit s = .next (s.respond (s.params.emitHeader.setWidth 32)) := rfl

theorem exec_hdrMake (cinfo : BitVec 4) (flevel : BitVec 2) (s : State) :
    exec (.hdrMake cinfo flevel false) s = .next (s.respond ((madeHeader cinfo flevel).setWidth 32)) := rfl

theorem exec_hdrMake_fdict (cinfo : BitVec 4) (flevel : BitVec 2) (s : State) :
    exec (.hdrMake cinfo flevel true) s = .next (s.raise .notImplemented) := rfl

theorem exec_trlPack (s : State) : exec .trlPack s = .next (s.respond s.regs.adler) := rfl

theorem exec_trlByte (k : BitVec 2) (s : State) :
    exec (.trlByte k) s = .next (s.respond ((lane s.regs.adler k.toNat).setWidth 32)) := rfl

/-- After ENC_BEGIN the effort is high for every mode but BestSpeed (10_state.md R24; 41_encode.md R67). -/
theorem selectMode_effort (s : State) (m : BitVec 2) : (s.selectMode m).regs.effort = decide (m ≠ 2) :=
  Regs.effort_eq _

/-- A stream byte of a word, as a number (20_memory.md R35). -/
theorem lane_toNat (w : Word) (k : Nat) : (lane w k).toNat = w.toNat / 2 ^ (24 - 8 * k) % 256 := by
  rw [lane, BitVec.extractLsb'_toNat, Nat.shiftRight_eq_div_pow]

/-- The trailer bytes are those of the two sums, high sum first (20_memory.md R36). -/
theorem halves_bytes (b a : Half) :
    (b ++ a : Word).extractLsb' 24 8 = b.extractLsb' 8 8 ∧ (b ++ a : Word).extractLsb' 16 8 = b.extractLsb' 0 8
      ∧ (b ++ a : Word).extractLsb' 8 8 = a.extractLsb' 8 8 ∧ (b ++ a : Word).extractLsb' 0 8 = a.extractLsb' 0 8 :=
  ⟨BitVec.extractLsb'_append_eq_of_le (by decide), BitVec.extractLsb'_append_eq_of_le (by decide),
    BitVec.extractLsb'_append_eq_of_add_le (by decide), BitVec.extractLsb'_append_eq_of_add_le (by decide)⟩

/-- Settles O20: mode 3 raises before any write, and any other mode is selected with the sums started. -/
theorem encBeginStartsOrRefuses : Obligations.EncBeginStartsOrRefuses := by
  refine ⟨?_, fun m s hm => ?_, fun s => ?_⟩
  · exact decodesAs_of_row (row := ⟨.encBegin, 0x00000003, 0xFFFFFCFF⟩) (by decide) (by decide) (by decide) (by decide)
      fun cmd _ _ => congrArg Instr.encBegin (extract_eq_ofNat cmd 8 2)
  · exact ⟨_, exec_encBegin hm s, rfl, selectMode_effort s.startSums m, selectMode_effort s.startSums m⟩
  · rw [exec_encBegin_three, State.raise_eq]
    rfl

/-- Settles O21: the row has no operands, and HDR_EMIT only answers. -/
theorem hdrEmitReturnsTheHeader : Obligations.HdrEmitReturnsTheHeader := by
  refine ⟨?_, exec_hdrEmit⟩
  exact decodesAs_of_row (row := ⟨.hdrEmit, 0x00000004, 0xFFFFFFFF⟩) (by decide) (by decide) (by decide) (by decide)
    fun _ _ _ => rfl

/-- Settles O23: the row has no operands, and the response is the two sums joined. -/
theorem trlPackReturnsTheTrailer : Obligations.TrlPackReturnsTheTrailer := by
  refine ⟨?_, fun s => ⟨_, exec_trlPack s, rfl, halves_bytes s.regs.adlB s.regs.adlA⟩⟩
  exact decodesAs_of_row (row := ⟨.trlPack, 0x00000006, 0xFFFFFFFF⟩) (by decide) (by decide) (by decide) (by decide)
    fun _ _ _ => rfl

/-- Settles O24: lane `k` of the joined sums, as a number. -/
theorem trlByteReturnsOneTrailerByte : Obligations.TrlByteReturnsOneTrailerByte := by
  refine ⟨?_, fun k s => ?_⟩
  · exact decodesAs_of_row (row := ⟨.trlByte, 0x00000007, 0xFFFFFCFF⟩) (by decide) (by decide) (by decide) (by decide)
      fun cmd _ _ => congrArg Instr.trlByte (extract_eq_ofNat cmd 8 2)
  · have hbyte : (lane s.regs.adler k.toNat).setWidth 32 = BitVec.ofNat 32
        ((s.regs.adlB.toNat * 2 ^ 16 + s.regs.adlA.toNat) / 2 ^ (24 - 8 * k.toNat) % 256) := by
      rw [← BitVec.ofNat_toNat, lane_toNat, Regs.adler, halves_toNat]
    rw [exec_trlByte, hbyte]
    rfl

end Sys2Proof.Machine
end

section
/-! The headers that the formatting requests answer (41_encode.md R69, R70, R75). -/

namespace Sys2Proof.Machine

/-- A header that passes the checks and announces no dictionary (41_encode.md R69, R75). -/
structure PlainHeader (h : Half) : Prop where
  fdict : h.getLsbD 5 = false
  method : h.extractLsb' 8 4 = 8
  check : h.toNat % 31 = 0

/-- The constraints on `EMIT_HEADER` say that it is a plain header. -/
theorem plainHeader_emitHeader {p : Params} (hp : p.WellFormed = true) : PlainHeader p.emitHeader := by
  obtain ⟨⟨hmethod, hfdict⟩, hcheck⟩ : (p.emitHeader.extractLsb' 8 4 = 8 ∧ p.emitHeader.getLsbD 5 = false)
      ∧ p.emitHeader.toNat % 31 = 0 := by
    simpa [Params.WellFormed, Config.fdictBit, Config.hdrMod] using hp
  exact ⟨hfdict, hmethod, hcheck⟩

/-- Check bits are below 31, so they fit in five bits (41_encode.md R70). -/
theorem fcheckOf_le (v : Nat) : fcheckOf v ≤ 30 :=
  Nat.le_of_lt_succ (Nat.mod_lt _ (by decide))

/-- The check bits complete any number to a multiple of 31 (41_encode.md R70). -/
theorem add_fcheckOf_mod (v : Nat) : (v + fcheckOf v) % 31 = 0 := by
  simp only [fcheckOf, Config.hdrMod]
  omega

/-- The fields of a made header lie side by side: no carry runs from one into the next. -/
theorem madeHeader_toNat (cinfo : BitVec 4) (flevel : BitVec 2) : ∃ c : Nat, c ≤ 30
    ∧ (madeHeader cinfo flevel).toNat = (cinfo.toNat * 16 + 8) * 256 + flevel.toNat * 64 + c
    ∧ (madeHeader cinfo flevel).toNat % 31 = 0 := by
  have hc := fcheckOf_le ((cinfo.toNat * 16 + 8) * 256 + flevel.toNat * 64)
  have hmod := add_fcheckOf_mod ((cinfo.toNat * 16 + 8) * 256 + flevel.toNat * 64)
  have hcinfo := cinfo.isLt
  have hflevel := flevel.isLt
  have hnum : (madeHeader cinfo flevel).toNat = (cinfo.toNat * 16 + 8) * 256 + flevel.toNat * 64
      + fcheckOf ((cinfo.toNat * 16 + 8) * 256 + flevel.toNat * 64) :=
    Nat.mod_eq_of_lt (show (cinfo.toNat * 16 + 8) * 256 + flevel.toNat * 64
      + fcheckOf ((cinfo.toNat * 16 + 8) * 256 + flevel.toNat * 64) < 2 ^ 16 by omega)
  exact ⟨_, hc, hnum, hnum ▸ hmod⟩

/-- A field of a header, as a number. -/
theorem header_field_eq {h : Half} {at' w : Nat} {v : BitVec w} (hv : h.toNat / 2 ^ at' % 2 ^ w = v.toNat) :
    h.extractLsb' at' w = v := by
  apply BitVec.eq_of_toNat_eq
  rw [BitVec.extractLsb'_toNat, Nat.shiftRight_eq_div_pow, hv]

theorem madeHeader_fields (cinfo : BitVec 4) (flevel : BitVec 2) :
    (madeHeader cinfo flevel).extractLsb' 12 4 = cinfo ∧ (madeHeader cinfo flevel).extractLsb' 8 4 = 8
      ∧ (madeHeader cinfo flevel).extractLsb' 6 2 = flevel ∧ (madeHeader cinfo flevel).getLsbD 5 = false
      ∧ (madeHeader cinfo flevel).toNat % 31 = 0 ∧ ((madeHeader cinfo flevel).extractLsb' 0 5).toNat ≤ 30 := by
  obtain ⟨c, hc, hnum, hmod⟩ := madeHeader_toNat cinfo flevel
  have hcinfo := cinfo.isLt
  have hflevel := flevel.isLt
  have h5 : (madeHeader cinfo flevel).toNat / 2 ^ 5 = cinfo.toNat * 128 + 64 + flevel.toNat * 2 := by omega
  have h6 : (madeHeader cinfo flevel).toNat / 2 ^ 6 = cinfo.toNat * 64 + 32 + flevel.toNat := by omega
  have h8 : (madeHeader cinfo flevel).toNat / 2 ^ 8 = cinfo.toNat * 16 + 8 := by omega
  have h12 : (madeHeader cinfo flevel).toNat / 2 ^ 12 = cinfo.toNat := by omega
  refine ⟨header_field_eq ?_, header_field_eq ?_, header_field_eq ?_, ?_, hmod, ?_⟩
  · rw [h12, Nat.mod_eq_of_lt hcinfo]
  · rw [h8, show (8 : BitVec 4).toNat = 8 from rfl]
    omega
  · rw [h6]
    omega
  · rw [BitVec.getLsbD, Nat.testBit_eq_decide_div_mod_eq, h5, decide_eq_false_iff_not]
    omega
  · rw [BitVec.extractLsb'_toNat, Nat.shiftRight_zero]
    omega

theorem plainHeader_madeHeader (cinfo : BitVec 4) (flevel : BitVec 2) : PlainHeader (madeHeader cinfo flevel) := by
  obtain ⟨-, hmethod, -, hfdict, hcheck, -⟩ := madeHeader_fields cinfo flevel
  exact ⟨hfdict, hmethod, hcheck⟩

/-- Settles O22: the made header field by field, and FD = 1 raises. -/
theorem hdrMakeReturnsAValidHeader : Obligations.HdrMakeReturnsAValidHeader := by
  refine ⟨?_, fun cinfo flevel s => ?_, fun cinfo flevel s => ?_⟩
  · refine decodesAs_of_row (row := ⟨.hdrMake, 0x00000005, 0xFFFF08FF⟩) (by decide) (by decide) (by decide) (by decide)
      fun cmd _ _ => ?_
    rw [Op.operands, extract_eq_ofNat, extract_eq_ofNat]
  · exact ⟨_, exec_hdrMake cinfo flevel s, madeHeader_fields cinfo flevel⟩
  · rw [exec_hdrMake_fdict, State.raise_eq]
    rfl

/-- A formatting request answers a plain header or raises an error (41_encode.md R75). -/
theorem exec_formatter {i : Instr} (hop : i.op = .encBegin ∨ i.op = .hdrEmit ∨ i.op = .hdrMake) {s : State}
    (hp : s.params.WellFormed = true) :
    (∃ h : Half, PlainHeader h ∧ exec i s = .next ((writes s i).respond (h.setWidth 32)))
      ∨ ∃ e : Err, exec i s = .next (s.raise e) := by
  cases i with
  | encBegin m =>
    by_cases hm : m = 3
    · subst hm
      exact .inr ⟨_, exec_encBegin_three s⟩
    · exact .inl ⟨_, plainHeader_emitHeader hp, exec_encBegin hm s⟩
  | hdrEmit => exact .inl ⟨_, plainHeader_emitHeader hp, exec_hdrEmit s⟩
  | hdrMake cinfo flevel fd =>
    cases fd with
    | true => exact .inr ⟨_, exec_hdrMake_fdict cinfo flevel s⟩
    | false => exact .inl ⟨_, plainHeader_madeHeader cinfo flevel, exec_hdrMake cinfo flevel s⟩
  | _ => simp [Instr.op] at hop

/-- A header in the low half of a word keeps its number. -/
theorem setWidth_word_toNat (h : Half) : (h.setWidth 32 : Word).toNat = h.toNat :=
  BitVec.toNat_setWidth_of_le (by decide)

/-- A header in the low half of a word keeps its fields. -/
theorem extract_setWidth_word (h : Half) (at' w : Nat) :
    (h.setWidth 32 : Word).extractLsb' at' w = h.extractLsb' at' w := by
  apply BitVec.eq_of_toNat_eq
  rw [BitVec.extractLsb'_toNat, BitVec.extractLsb'_toNat, setWidth_word_toNat]

theorem PlainHeader.word {h : Half} (hh : PlainHeader h) :
    (h.setWidth 32).getLsbD 5 = false ∧ (h.setWidth 32).extractLsb' 8 4 = 8 ∧ (h.setWidth 32).toNat % 31 = 0
      ∧ (h.setWidth 32).toNat < 2 ^ 16 := by
  rw [extract_setWidth_word, setWidth_word_toNat]
  exact ⟨by simpa using hh.fdict, hh.method, hh.check, h.isLt⟩

/-- Settles O25: a success answers a plain header, and an error's code is not 0. -/
theorem noDictionaryHeaderIsMade : Obligations.NoDictionaryHeaderIsMade := by
  intro i s hp hop
  rcases exec_formatter hop hp with ⟨h, hh, hexec⟩ | ⟨e, hexec⟩
  · exact ⟨_, _, hexec, rfl, fun _ => hh.word⟩
  · exact ⟨_, _, hexec, State.raise_rsp s e, fun herr => absurd herr e.code_ne_zero⟩

end Sys2Proof.Machine
end

section
/-! Runs of requests, one request after another, and the checksum a run leaves (40_adler.md R65). -/

namespace Sys2Proof.Machine

/-- A well-formed request is served as its meaning says: its words decode to it (30_encoding.md R59). -/
theorem serve_encode {i : Instr} (hwf : i.WellFormed = true) (s : State) : serve (encode i) s = exec i s :=
  serve_ok (decodeEncodeRoundTrip i hwf) s

/-- A run of one request that succeeds. -/
theorem runRequests_single {s t : State} {r : Request} {v : Word} (h : serve r s = .next (t.respond v)) :
    runRequests s [r] = ([⟨0, v⟩], t.respond v) :=
  runRequests_cons h []

/-- The last request of a run is served in the state that the requests before it leave. -/
theorem runRequests_concat {s t : State} {rs : List Request} {r : Request}
    (h : serve r (runRequests s rs).2 = .next t) :
    runRequests s (rs ++ [r]) = ((runRequests s rs).1 ++ t.rsp.toList, t) := by
  induction rs generalizing s with
  | nil => exact (runRequests_cons h []).trans (by simp [runRequests])
  | cons r' rs ih =>
    obtain ⟨u, hu, -⟩ := serve_takenTo r' s
    rw [runRequests_cons hu] at h
    rw [List.cons_append, runRequests_cons hu, runRequests_cons hu, ih h, List.append_assoc]

/-- The last response of a run whose last request succeeds is that request's. -/
theorem runRequests_getLast? {s t : State} {rs : List Request} {r : Request} {v : Word}
    (h : serve r (runRequests s rs).2 = .next (t.respond v)) : (runRequests s (rs ++ [r])).1.getLast? = some ⟨0, v⟩ := by
  rw [runRequests_concat h]
  exact List.getLast?_concat

theorem calculate_lt (xs : List Byte) : calculate xs < 2 ^ 32 := by
  rw [← accumulate_startSums_adler State.reset xs]
  exact BitVec.isLt _

/-- Accumulating bytes from `A_INIT` and `B_INIT` leaves their checksum in `ADLER` (40_adler.md R65). -/
theorem accumulate_adler {s : State} (hA : s.regs.adlA = Config.aInit) (hB : s.regs.adlB = Config.bInit)
    (xs : List Byte) : (s.accumulate xs).regs.adler = BitVec.ofNat 32 (calculate xs) := by
  obtain ⟨hA', hB'⟩ := State.accumulate_sums_congr (t := s.startSums) hA hB xs
  rw [← accumulate_startSums_adler s xs, BitVec.ofNat_toNat, BitVec.setWidth_eq, Regs.adler, hA', hB', Regs.adler]

/-- ADLER_INIT and then ADLER_ACC over bytes, however cut, leave the checksum of the bytes in `ADLER`. -/
theorem runRequests_checksum {cs : List Chunk} (hcs : ∀ c ∈ cs, c.WellFormed = true) (s : State) :
    (runRequests s (encode .adlerInit :: accRequests cs)).2.regs.adler = BitVec.ofNat 32 (calculate (chunkBytes cs)) := by
  rw [runRequests_cons (serve_adlerInit s), runRequests_accRequests hcs]
  exact accumulate_adler rfl rfl _

/-- TRL_PACK at the end of a run over chunks answers the sums that the bytes leave. -/
theorem runRequests_trlPack {cs : List Chunk} (hcs : ∀ c ∈ cs, c.WellFormed = true) (s : State) :
    (runRequests s (accRequests cs ++ [encode .trlPack])).1.getLast? =
      some ⟨0, (s.accumulate (chunkBytes cs)).regs.adler⟩ := by
  rw [runRequests_getLast? ((serve_encode (i := .trlPack) rfl _).trans (exec_trlPack _)), runRequests_accRequests hcs]

end Sys2Proof.Machine
end

section
/-! The encode procedure: header, payload and trailer of the frame it makes (41_encode.md R73, R74). -/

namespace Sys2Proof.Machine

/-- Mode 3 raises, and the procedure makes nothing. -/
theorem encodeProcedure_three (s : State) (cs : List Chunk) (compress : List Byte → Bool → List Byte) :
    (encodeProcedure s 3 cs compress).1 = none := by
  have hserve : serve (encode (.encBegin 3)) s = .next (s.raise .invalidArgument) :=
    (serve_encode rfl s).trans (exec_encBegin_three s)
  have hrun : runRequests s [encode (.encBegin 3)] = ([⟨1, 0⟩], s.raise .invalidArgument) :=
    runRequests_cons hserve []
  rw [encodeProcedure, hrun]
  rfl

/-- The frame of any other mode: `EMIT_HEADER`, the engine's payload at the mode's effort, and the checksum of the bytes. -/
theorem encodeProcedure_frame {m : BitVec 2} (hm : m ≠ 3) {cs : List Chunk} (hcs : ∀ c ∈ cs, c.WellFormed = true)
    (s : State) (compress : List Byte → Bool → List Byte) : (encodeProcedure s m cs compress).1 =
      some (frameOf (s.params.emitHeader.setWidth 32) (compress (chunkBytes cs) (decide (m ≠ 2)))
        (BitVec.ofNat 32 (calculate (chunkBytes cs)))) := by
  have hbegin := runRequests_single ((serve_encode (i := .encBegin m) rfl s).trans (exec_encBegin hm s))
  have heffort : (outputs ((s.startSums.selectMode m).respond (s.params.emitHeader.setWidth 32)).regs).effortO
      = decide (m ≠ 2) := selectMode_effort s.startSums m
  rw [encodeProcedure, hbegin]
  simp only [if_pos, heffort, runRequests_trlPack hcs, Option.map_some]
  rw [accumulate_adler rfl rfl]

/-- The two bytes of a header, and the header of two bytes (20_memory.md R34). -/
theorem headerOf_bytes (h : Half) : headerOf (h.extractLsb' 8 8) (h.extractLsb' 0 8) = h := by
  have hlt := h.isLt
  apply BitVec.eq_of_toNat_eq
  rw [headerOf_toNat, BitVec.extractLsb'_toNat, BitVec.extractLsb'_toNat, Nat.shiftRight_eq_div_pow, Nat.shiftRight_zero]
  omega

/-- A plain header, said of its two bytes. -/
theorem PlainHeader.bytes {cmf flg : Byte} (hh : PlainHeader (headerOf cmf flg)) :
    cmf.toNat % 16 = 8 ∧ (cmf.toNat * 256 + flg.toNat) % 31 = 0 ∧ flg.getLsbD 5 = false := by
  have hmethod : cmOk (headerOf cmf flg) = true := beq_iff_eq.mpr hh.method
  rw [cmOk_headerOf, decide_eq_true_eq] at hmethod
  exact ⟨hmethod, headerOf_toNat cmf flg ▸ hh.check, fdictOf_headerOf cmf flg ▸ hh.fdict⟩

/-- A frame byte by byte: the trailer's four bytes are the lanes of its word (20_memory.md R34, R36). -/
theorem frameOf_eq (h : Half) (payload : List Byte) (w : Word) : frameOf (h.setWidth 32) payload w =
    [h.extractLsb' 8 8, h.extractLsb' 0 8] ++ payload ++ [lane w 0, lane w 1, lane w 2, lane w 3] := by
  rw [frameOf, extract_setWidth_word, extract_setWidth_word]
  rfl

/-- The last four bytes of a frame are the lanes of its trailer word. -/
theorem frameOf_drop (header : Word) (payload : List Byte) (w : Word) :
    (frameOf header payload w).drop ((frameOf header payload w).length - 4) = lanes w 4 := by
  have hlen : (lanes w 4).length = 4 := rfl
  rw [frameOf, List.length_append, hlen, Nat.add_sub_cancel, List.drop_left]

/-- Settles O26: the frame of `encodeProcedure_frame`, byte by byte. -/
theorem encodeProcedureMakesTheFrame : Obligations.EncodeProcedureMakesTheFrame := by
  intro s m cs compress hcs hp
  refine ⟨fun hm => ?_, fun hm => ?_⟩
  · rw [hm, encodeProcedure_three]
  · have hheader := headerOf_bytes s.params.emitHeader
    have hplain := plainHeader_emitHeader hp
    rw [← hheader] at hplain
    obtain ⟨hmethod, hcheck, hfdict⟩ := hplain.bytes
    refine ⟨_, _, _, _, _, _, (encodeProcedure_frame hm hcs s compress).trans (congrArg some (frameOf_eq _ _ _)),
      ?_, hmethod, hcheck, hfdict, ?_⟩
    · rw [← headerOf_toNat, hheader]
    · rw [lanes_toNat, BitVec.toNat_ofNat, Nat.mod_eq_of_lt (calculate_lt _)]

/-- Settles O27: the trailer word of either frame is the checksum of the one byte sequence. -/
theorem trailerIsTheSameForEveryMode : Obligations.TrailerIsTheSameForEveryMode := by
  intro s s' m m' cs cs' compress compress' hcs hcs' hbytes hm hm'
  refine ⟨_, _, encodeProcedure_frame hm hcs s compress, encodeProcedure_frame hm' hcs' s' compress', ?_⟩
  rw [frameOf_drop, frameOf_drop, hbytes]

end Sys2Proof.Machine
end

section
/-! The decode procedure on a frame whose trailer matches, and the round trip (42_decode.md R78, R82, R83). -/

namespace Sys2Proof.Machine

/-- FRAME_PARSE of a header that passes and a length that suffices (42_decode.md R78). -/
theorem exec_frameParse {s : State} {cmf flg : Byte} {len : Word} (hpass : HeaderPasses s.params cmf flg)
    (hlen : leastFrame flg ≤ len.toNat) : exec (.frameParse cmf flg len) s =
      .next (((s.openHeader (headerOf cmf flg)).openFrame len).respond (prefixLen (headerOf cmf flg))) := by
  have haccept : ¬ (hdrOk s.params (headerOf cmf flg) = false ∨ len < minLen (headerOf cmf flg)) := by
    rw [(hdrOk_headerOf s.params cmf flg).mpr hpass, BitVec.lt_def, minLen_headerOf]
    simpa using hlen
  rw [exec, execFrameParse, if_neg haccept]

/-- TRL_CHECK of the checksum itself matches, verified or not (42_decode.md R82). -/
theorem exec_trlCheck_adler (s : State) :
    exec (.trlCheck s.regs.adler) s = .next ((s.recordTrailer true).respond 1) := by
  simp [exec, execTrlCheck]

/-- A run of one request that succeeds, as the host takes it. -/
theorem answerOf_single (v : Word) : answerOf [⟨0, v⟩] = .ok ⟨0, v⟩ :=
  answerOf_ok rfl rfl

/-- ADLER_INIT, ADLER_ACC over bytes and TRL_CHECK of their checksum end in success. -/
theorem answerOf_checksum_run {cs : List Chunk} (hcs : ∀ c ∈ cs, c.WellFormed = true) {t : Word}
    (ht : t.toNat = calculate (chunkBytes cs)) (s : State) :
    answerOf (runRequests s (encode .adlerInit :: accRequests cs ++ [encode (.trlCheck t)])).1 = .ok ⟨0, 1⟩ := by
  have hadler : (runRequests s (encode .adlerInit :: accRequests cs)).2.regs.adler = t := by
    rw [runRequests_checksum hcs, ← ht, BitVec.ofNat_toNat, BitVec.setWidth_eq]
  have hserve := serve_encode (i := .trlCheck t) rfl (runRequests s (encode .adlerInit :: accRequests cs)).2
  rw [← hadler, exec_trlCheck_adler, hadler] at hserve
  exact answerOf_ok (runRequests_getLast? hserve) rfl

/-- An accepted frame has its two header bytes, so nothing the host passes for absent ones is read. -/
theorem FrameAccepted.getD {p : Params} {f : List Byte} (hf : FrameAccepted p f) (b0 b1 : Byte) :
    f.getD 0 b0 = f.getD 0 0 ∧ f.getD 1 b1 = f.getD 1 0 := by
  obtain ⟨-, hlen, -⟩ := hf
  have hlen : 6 ≤ f.length := le_trans (Nat.le_add_right _ _) hlen
  have hget {k : Nat} (hk : k < 2) (b b' : Byte) : f.getD k b = f.getD k b' := by
    rw [List.getD_eq_getElem _ _ (by omega), List.getD_eq_getElem _ _ (by omega)]
  exact ⟨hget (by decide) b0 0, hget (by decide) b1 0⟩

/-- The header at the front of a frame (42_decode.md R83, step 1). -/
def frameHeader (f : List Byte) : Half :=
  headerOf (f.getD 0 0) (f.getD 1 0)

theorem prefixLen_frameHeader (f : List Byte) :
    (prefixLen (frameHeader f)).toNat = 2 + 4 * ((f.getD 1 0).getLsbD 5).toNat :=
  prefixLen_headerOf _ _

/-- Step 1 of the decode procedure on an accepted frame: the frame is opened, and the payload's offset is answered
(42_decode.md R83). -/
theorem runRequests_frameParse {s : State} {f : List Byte} (hf : FrameAccepted s.params f) (b0 b1 : Byte) :
    runRequests s [encode (.frameParse (f.getD 0 b0) (f.getD 1 b1) (BitVec.ofNat 32 f.length))] =
      ([⟨0, prefixLen (frameHeader f)⟩], ((s.openHeader (frameHeader f)).openFrame
        (BitVec.ofNat 32 f.length)).respond (prefixLen (frameHeader f))) := by
  obtain ⟨h0, h1⟩ := hf.getD b0 b1
  obtain ⟨hpass, hleast, hlt⟩ := hf
  have hlen : (BitVec.ofNat 32 f.length).toNat = f.length := Nat.mod_eq_of_lt hlt
  rw [h0, h1]
  exact runRequests_single ((serve_encode rfl s).trans (exec_frameParse hpass (hlen.symm ▸ hleast)))

/-- The decode procedure returns what the engine makes of an accepted frame's payload, if the trailer is its checksum:
a host that stops at step 3 compares nothing, and for any other the comparison matches (42_decode.md R83). -/
theorem decodeProcedure_of_matching_trailer {s : State} {pre d : List Byte} {t0 t1 t2 t3 : Byte}
    {decompress : List Byte → EngineResult} {chop : List Byte → List Chunk} (host : HostChoices)
    (hchop : (∀ c ∈ chop d, c.WellFormed = true) ∧ chunkBytes (chop d) = d)
    (hf : FrameAccepted s.params (pre ++ [t0, t1, t2, t3]))
    (hd : decompress (pre.drop (2 + 4 * (((pre ++ [t0, t1, t2, t3]).getD 1 0).getLsbD 5).toNat)) = .done d)
    (ht : trailerNat t0 t1 t2 t3 = calculate d) :
    (decodeProcedure s (pre ++ [t0, t1, t2, t3]) decompress chop host).1 = .ok d := by
  obtain ⟨hwf, hbytes⟩ := hchop
  have hlt : (pre ++ [t0, t1, t2, t3]).length < 2 ^ 32 := hf.2.2
  have htrailer : (trailerOf (pre ++ [t0, t1, t2, t3])).toNat = calculate (chunkBytes (chop d)) := by
    rw [trailerOf_toNat, ht, hbytes]
  rw [decodeProcedure, if_neg (Nat.not_le.mpr hlt), runRequests_frameParse hf]
  simp only [answerOf_single, (frame_tail pre t0 t1 t2 t3).2, prefixLen_frameHeader, hd]
  split
  · rfl
  · rw [answerOf_checksum_run hwf htrailer]
    rfl

/-- Settles O33: the frame that the encoder makes is accepted by any decoder, and its trailer is the checksum of the bytes
that the engine returns. -/
theorem decodeOfEncodeReturnsTheBytes : Obligations.DecodeOfEncodeReturnsTheBytes := by
  intro s s' m cs compress decompress chop host hm hp hcs hchop hengine hshort
  obtain ⟨cmf, flg, t0, t1, t2, t3, hframe, -, hmethod, hcheck, hfdict, htrailer⟩ :=
    (encodeProcedureMakesTheFrame s m cs compress hcs hp).2 hm
  have hlen : ([cmf, flg] ++ compress (chunkBytes cs) (decide (m ≠ 2)) ++ [t0, t1, t2, t3]).length =
      (compress (chunkBytes cs) (decide (m ≠ 2))).length + 6 := by
    simp only [List.length_append, List.length_cons, List.length_nil]
    omega
  have hleast : leastFrame flg = 6 := by
    rw [leastFrame, hfdict]
    rfl
  have haccepted : FrameAccepted s'.params
      ([cmf, flg] ++ compress (chunkBytes cs) (decide (m ≠ 2)) ++ [t0, t1, t2, t3]) := by
    refine ⟨fun _ => ⟨hmethod, hcheck⟩, ?_, hlen ▸ hshort⟩
    rw [hlen]
    exact hleast.trans_le (Nat.le_add_left 6 _)
  refine ⟨_, hframe, decodeProcedure_of_matching_trailer host (hchop _) haccepted ?_ htrailer⟩
  show decompress (List.drop (2 + 4 * (flg.getLsbD 5).toNat) _) = _
  rw [hfdict]
  exact hengine _ _

end Sys2Proof.Machine
end

section
/-! The decode-side requests, one at a time: encoding, response and writes, and their failures
(42_decode.md R77, R78, R82, R84). -/

namespace Sys2Proof.Machine

/-- The check of the model fails where the statement's does. -/
theorem hdrOk_headerOf_eq_false (p : Params) (cmf flg : Byte) :
    hdrOk p (headerOf cmf flg) = false ↔ ¬ HeaderPasses p cmf flg := by
  rw [← Bool.not_eq_true, hdrOk_headerOf]

theorem exec_hdrCheck {s : State} {cmf flg : Byte} (h : HeaderPasses s.params cmf flg) :
    exec (.hdrCheck cmf flg) s = .next (((s.openHeader (headerOf cmf flg)).closeFrame).respond
      ((s.openHeader (headerOf cmf flg)).closeFrame).regs.status) := by
  rw [exec, execHdrCheck, if_pos ((hdrOk_headerOf s.params cmf flg).mpr h)]

theorem exec_hdrCheck_rejected {s : State} {cmf flg : Byte} (h : ¬ HeaderPasses s.params cmf flg) :
    exec (.hdrCheck cmf flg) s = .next (s.raise .malformedInput) := by
  rw [exec, execHdrCheck, if_neg (mt (hdrOk_headerOf s.params cmf flg).mp h)]

theorem exec_frameParse_rejected {s : State} {cmf flg : Byte} {len : Word}
    (h : ¬ HeaderPasses s.params cmf flg ∨ len.toNat < leastFrame flg) :
    exec (.frameParse cmf flg len) s = .next (s.raise .malformedInput) := by
  have hreject : hdrOk s.params (headerOf cmf flg) = false ∨ len < minLen (headerOf cmf flg) := by
    rwa [hdrOk_headerOf_eq_false, BitVec.lt_def, minLen_headerOf]
  rw [exec, execFrameParse, if_pos hreject]

/-- TRL_CHECK records the comparison and answers it, unless it fails and is enforced. -/
theorem exec_trlCheck {s : State} {t : Word} (h : s.params.verifyTrailer = false ∨ t = s.regs.adler) :
    exec (.trlCheck t) s = .next ((s.recordTrailer (decide (t = s.regs.adler))).respond
      ((BitVec.ofBool (decide (t = s.regs.adler))).setWidth 32)) := by
  have hpass : ¬ (s.params.verifyTrailer && !(t == s.regs.adler)) = true := by
    rcases h with h | h <;> simp [h]
  rw [exec, execTrlCheck, if_neg hpass]
  rfl

theorem exec_trlCheck_rejected {s : State} {t : Word} (hv : s.params.verifyTrailer = true) (h : t ≠ s.regs.adler) :
    exec (.trlCheck t) s = .next (s.raise .checksumMismatch) := by
  have hreject : (s.params.verifyTrailer && !(t == s.regs.adler)) = true := by simp [hv, h]
  rw [exec, execTrlCheck, if_pos hreject]

/-- The flags that STATUS reports of a valid header (42_decode.md R77; 10_state.md R20, R26). -/
theorem status_of_header {r : Regs} {cmf flg : Byte} (hvalid : r.hdrValid = true) (hhdr : r.hdr = headerOf cmf flg) :
    r.status.getLsbD 1 = flg.getLsbD 5 ∧ r.status.getLsbD 2 = decide (cmf.toNat % 16 = 8)
      ∧ r.status.getLsbD 3 = decide ((cmf.toNat * 256 + flg.toNat) % 31 = 0) := by
  obtain ⟨-, hfdict, hcm, hchk, -⟩ := status_flags r
  rw [hfdict, hcm, hchk, Regs.fdictS, Regs.cmOkS, Regs.chkOkS, hvalid, hhdr, fdictOf_headerOf, cmOk_headerOf,
    chkOk_headerOf]
  exact ⟨rfl, rfl, rfl⟩

/-- Settles O28: a header that passes is opened with its flags in STATUS, and any other raises. -/
theorem hdrCheckOpensAHeaderContext : Obligations.HdrCheckOpensAHeaderContext := by
  refine ⟨?_, fun cmf flg s hpass => ?_, fun cmf flg s hfail => ?_⟩
  · refine decodesAs_of_row (row := ⟨.hdrCheck, 0x00000008, 0xFF0000FF⟩) (by decide) (by decide) (by decide) (by decide)
      fun cmd _ _ => ?_
    rw [Op.operands, extract_eq_ofNat, extract_eq_ofNat]
  · exact ⟨_, exec_hdrCheck hpass, rfl, status_of_header rfl rfl⟩
  · rw [exec_hdrCheck_rejected hfail, State.raise_eq]
    rfl

/-- Settles O29: an accepted frame is opened, and `layout_toNat` gives its layout; any other request raises. -/
theorem frameParseFixesTheLayout : Obligations.FrameParseFixesTheLayout := by
  refine ⟨?_, fun cmf flg len s hpass hlen => ?_, fun cmf flg len s hfail => ?_⟩
  · refine decodesAs_of_row (row := ⟨.frameParse, 0x00000009, 0xFF0000FF⟩) (by decide) (by decide) (by decide)
      (by decide) fun cmd opnd _ => ?_
    rw [Op.operands, extract_eq_ofNat, extract_eq_ofNat]
  · have hfdict : (headerOf cmf flg).getLsbD 5 = flg.getLsbD 5 := fdictOf_headerOf cmf flg
    have hlayout := layout_toNat (r := ((s.openHeader (headerOf cmf flg)).openFrame len).regs) rfl
      (show 6 + 4 * ((headerOf cmf flg).getLsbD 5).toNat ≤ len.toNat from hfdict ▸ hlen)
    obtain ⟨-, htrl, hpay⟩ := hlayout
    refine ⟨_, prefixLen (headerOf cmf flg), exec_frameParse hpass hlen, prefixLen_headerOf cmf flg, rfl, rfl, htrl, ?_⟩
    rw [prefixLen_headerOf, ← hfdict, Nat.sub_right_comm]
    exact hpay
  · rw [exec_frameParse_rejected hfail, State.raise_eq]
    rfl

/-- Headers that agree in FDICT agree in the payload's offset. -/
theorem prefixLen_headerOf_congr {flg flg' : Byte} (h : flg.getLsbD 5 = flg'.getLsbD 5) (cmf cmf' : Byte) :
    prefixLen (headerOf cmf flg) = prefixLen (headerOf cmf' flg') := by
  rw [prefixLen, prefixLen, fdictOf_headerOf, fdictOf_headerOf, h]

theorem leastFrame_congr {flg flg' : Byte} (h : flg.getLsbD 5 = flg'.getLsbD 5) : leastFrame flg = leastFrame flg' := by
  rw [leastFrame, leastFrame, h]

/-- The layout of an opened frame sees the header through the payload's offset (10_state.md R22). -/
theorem openFrame_layout_congr {h h' : Half} (hprefix : prefixLen h = prefixLen h') (s : State) (len : Word) :
    ((s.openHeader h).openFrame len).regs.payloadOff = ((s.openHeader h').openFrame len).regs.payloadOff
      ∧ ((s.openHeader h).openFrame len).regs.payloadLen = ((s.openHeader h').openFrame len).regs.payloadLen :=
  ⟨hprefix, congrArg (len - BitVec.ofNat 32 Config.trlLen - ·) hprefix⟩

/-- Settles O31: the two frames have one least length, so both are opened, with one payload offset, or both raise. -/
theorem layoutDependsOnlyOnFdict : Obligations.LayoutDependsOnlyOnFdict := by
  intro s cmf flg cmf' flg' len hpass hpass' hfdict
  have hleast := leastFrame_congr hfdict
  by_cases hlen : leastFrame flg ≤ len.toNat
  · have hprefix := prefixLen_headerOf_congr hfdict cmf cmf'
    obtain ⟨hoff, hpay⟩ := openFrame_layout_congr hprefix s len
    exact ⟨_, _, exec_frameParse hpass hlen, exec_frameParse hpass' (hleast ▸ hlen),
      congrArg (fun v => some (Response.mk 0 v)) hprefix, rfl, hoff, hpay, rfl⟩
  · have hshort : len.toNat < leastFrame flg := Nat.lt_of_not_le hlen
    exact ⟨_, _, exec_frameParse_rejected (.inr hshort), exec_frameParse_rejected (.inr (hleast ▸ hshort)),
      rfl, rfl, rfl, rfl, rfl⟩

/-- With both sums below the modulus neither half of ADLER reaches it (10_state.md R18). -/
theorem adler_halves_lt {r : Regs} (hA : r.adlA.toNat < 65521) (hB : r.adlB.toNat < 65521) :
    r.adler.toNat % 2 ^ 16 < 65521 ∧ r.adler.toNat / 2 ^ 16 < 65521 := by
  rw [Regs.adler, halves_toNat]
  omega

/-- Settles O32: the comparison with ADLER, recorded or enforced; a half of 65521 or more is no half of ADLER. -/
theorem trlCheckComparesTheTrailer : Obligations.TrlCheckComparesTheTrailer := by
  refine ⟨?_, fun t s heq => ?_, fun t s hne hv => ?_, fun t s hne hv => ?_, fun t s hinv hhalf heq => ?_⟩
  · exact decodesAs_of_row (row := ⟨.trlCheck, 0x0000000A, 0xFFFFFFFF⟩) (by decide) (by decide) (by decide) (by decide)
      fun _ _ _ => rfl
  · rw [exec_trlCheck (.inr heq), decide_eq_true (p := t = s.regs.adler) heq]
    rfl
  · rw [exec_trlCheck (.inl hv), decide_eq_false (p := t = s.regs.adler) hne]
    rfl
  · rw [exec_trlCheck_rejected hv hne, State.raise_eq]
    rfl
  · obtain ⟨hlow, hhigh⟩ := adler_halves_lt hinv.adlA_lt hinv.adlB_lt
    subst heq
    exact hhalf.elim (Nat.not_le.mpr hlow) (Nat.not_le.mpr hhigh)

end Sys2Proof.Machine
end

section
/-! The checksum run of the decode procedure: ADLER_INIT, ADLER_ACC over the decompressed bytes, TRL_CHECK
(42_decode.md R83, steps 4 and 5). -/

namespace Sys2Proof.Machine

theorem runRequests_params (s : State) (rs : List Request) : (runRequests s rs).2.params = s.params := by
  induction rs generalizing s with
  | nil => rfl
  | cons r rs ih =>
    obtain ⟨t, hserve, htaken⟩ := serve_takenTo r s
    rw [runRequests_cons hserve]
    exact (ih t).trans htaken.params

/-- A run whose last request raises an error, as the host takes it. -/
theorem answerOf_runRequests_raise {s t : State} {rs : List Request} {r : Request} {e : Err}
    (h : serve r (runRequests s rs).2 = .next (t.raise e)) :
    answerOf (runRequests s (rs ++ [r])).1 = .error (.reported e) := by
  rw [runRequests_concat h, State.raise_rsp]
  exact answerOf_error List.getLast?_concat rfl

/-- The requests of steps 4 and 5 for chunks `cs` and the trailer `t`. -/
def checkRequests (cs : List Chunk) (t : Word) : List Request :=
  encode .adlerInit :: accRequests cs ++ [encode (.trlCheck t)]

/-- TRL_CHECK finds in ADLER the checksum of the bytes. -/
theorem eq_adler_iff {cs : List Chunk} (hcs : ∀ c ∈ cs, c.WellFormed = true) (s : State) (t : Word) :
    t = (runRequests s (encode .adlerInit :: accRequests cs)).2.regs.adler ↔ t.toNat = calculate (chunkBytes cs) := by
  rw [runRequests_checksum hcs, ← BitVec.toNat_inj, BitVec.toNat_ofNat, Nat.mod_eq_of_lt (calculate_lt _)]

/-- Where nothing enforces the trailer, or it is the checksum of the bytes, the run succeeds; it writes the sums and the
result of the comparison. -/
theorem checkRequests_ok {cs : List Chunk} (hcs : ∀ c ∈ cs, c.WellFormed = true) {t : Word} {s : State}
    (h : s.params.verifyTrailer = false ∨ t.toNat = calculate (chunkBytes cs)) :
    ∃ (p : Response) (a b : Half), answerOf (runRequests s (checkRequests cs t)).1 = .ok p
      ∧ (runRequests s (checkRequests cs t)).2.regs = { s.regs with
          adlA := a, adlB := b, trlDone := true, trlMatch := decide (t.toNat = calculate (chunkBytes cs)) } := by
  obtain ⟨a, b, hregs, -⟩ := accumulatorComputesCalculate s cs hcs
  have hequal := eq_adler_iff hcs s t
  have hparams := runRequests_params s (encode .adlerInit :: accRequests cs)
  have hserve := (serve_encode (i := .trlCheck t) rfl _).trans
    (exec_trlCheck (s := (runRequests s (encode .adlerInit :: accRequests cs)).2) (by rwa [hparams, hequal]))
  refine ⟨_, a, b, answerOf_ok (runRequests_getLast? hserve) rfl, ?_⟩
  rw [checkRequests, runRequests_concat hserve, State.respond_regs, State.recordTrailer_regs,
    decide_eq_decide.mpr hequal, hregs]

/-- Where a trailer that is not the checksum of the bytes is enforced, the run ends in ChecksumMismatch. -/
theorem checkRequests_mismatch {cs : List Chunk} (hcs : ∀ c ∈ cs, c.WellFormed = true) {t : Word} {s : State}
    (hv : s.params.verifyTrailer = true) (ht : t.toNat ≠ calculate (chunkBytes cs)) :
    answerOf (runRequests s (checkRequests cs t)).1 = .error (.reported .checksumMismatch) := by
  have hparams := runRequests_params s (encode .adlerInit :: accRequests cs)
  exact answerOf_runRequests_raise ((serve_encode rfl _).trans
    (exec_trlCheck_rejected (hparams.symm ▸ hv) (mt (eq_adler_iff hcs s t).mp ht)))

end Sys2Proof.Machine
end

section
/-! The decode procedure, outcome by outcome (42_decode.md R83). -/

namespace Sys2Proof.Machine

/-- A frame of 2 bytes or more has its own header bytes. -/
theorem getD_header {f : List Byte} (h : 2 ≤ f.length) (b0 b1 : Byte) :
    f.getD 0 b0 = f.getD 0 0 ∧ f.getD 1 b1 = f.getD 1 0 := by
  have hget {k : Nat} (hk : k < 2) (b b' : Byte) : f.getD k b = f.getD k b' := by
    rw [List.getD_eq_getElem _ _ (by omega), List.getD_eq_getElem _ _ (by omega)]
  exact ⟨hget (by decide) b0 0, hget (by decide) b1 0⟩

theorem six_le_leastFrame (flg : Byte) : 6 ≤ leastFrame flg :=
  Nat.le_add_right 6 _

/-- The state after step 1 on an accepted frame: its header and its length are opened. -/
def openedFor (s : State) (f : List Byte) : State :=
  ((s.openHeader (frameHeader f)).openFrame (BitVec.ofNat 32 f.length)).respond (prefixLen (frameHeader f))

/-- Steps 2 to 5 from the state after step 1, by what the engine answers. -/
def afterEngine (s : State) (f : List Byte) (chop : List Byte → List Chunk) (host : HostChoices) :
    EngineResult → Except HostError (List Byte) × State
  | .failed _ => (.error (.reported .malformedInput), s)
  | .done d =>
    if host.stopEarly && !s.params.verifyTrailer then (.ok d, s)
    else
      ((answerOf (runRequests s (checkRequests (chop d) (trailerOf f))).1).map (fun _ => d),
        (runRequests s (checkRequests (chop d) (trailerOf f))).2)

section

variable {s : State} {f : List Byte} {decompress : List Byte → EngineResult} {chop : List Byte → List Chunk}
  {host : HostChoices}

theorem decodeProcedure_tooLong (h : 2 ^ 32 ≤ f.length) :
    decodeProcedure s f decompress chop host = (.error .tooLong, s) := by
  rw [decodeProcedure, if_pos h]

/-- Step 1 fails on a header, with the bytes the host passes for absent ones, that does not pass or whose least length the
frame does not have. -/
theorem decodeProcedure_not_parsed (hlt : f.length < 2 ^ 32)
    (h : ¬ HeaderPasses s.params (f.getD 0 host.byte0) (f.getD 1 host.byte1)
      ∨ f.length < leastFrame (f.getD 1 host.byte1)) :
    (decodeProcedure s f decompress chop host).1 = .error (.reported .malformedInput) := by
  have hlen : (BitVec.ofNat 32 f.length).toNat = f.length := Nat.mod_eq_of_lt hlt
  have hanswer := answerOf_runRequests_raise (rs := [])
    ((serve_encode rfl s).trans (exec_frameParse_rejected (hlen.symm ▸ h)))
  rw [List.nil_append] at hanswer
  rw [decodeProcedure, if_neg (Nat.not_le.mpr hlt)]
  simp only [hanswer]

/-- A frame that is not accepted is malformed: a short one whatever the host passes, any other by its own header. -/
theorem decodeProcedure_not_accepted (hlt : f.length < 2 ^ 32) (h : ¬ FrameAccepted s.params f) :
    (decodeProcedure s f decompress chop host).1 = .error (.reported .malformedInput) := by
  refine decodeProcedure_not_parsed hlt ?_
  by_cases hshort : f.length < 6
  · exact .inr (hshort.trans_le (six_le_leastFrame _))
  · obtain ⟨h0, h1⟩ := getD_header (f := f) (by omega) host.byte0 host.byte1
    rw [h0, h1, ← Nat.not_le, ← not_and_or]
    exact fun ⟨hpass, hleast⟩ => h ⟨hpass, hleast, hlt⟩

/-- An accepted frame is opened, and the engine is given what lies between the payload's offset and the trailer. -/
theorem decodeProcedure_accepted {pre : List Byte} {t0 t1 t2 t3 : Byte} (hf : FrameAccepted s.params f)
    (hpre : f = pre ++ [t0, t1, t2, t3]) : decodeProcedure s f decompress chop host =
      afterEngine (openedFor s f) f chop host (decompress (pre.drop (2 + 4 * ((f.getD 1 0).getLsbD 5).toNat))) := by
  obtain ⟨-, htake⟩ := frame_tail pre t0 t1 t2 t3
  rw [← hpre] at htake
  rw [decodeProcedure, if_neg (Nat.not_le.mpr hf.2.2), runRequests_frameParse hf]
  simp only [answerOf_single, htake, prefixLen_frameHeader]
  cases decompress (pre.drop (2 + 4 * ((f.getD 1 0).getLsbD 5).toNat)) with
  | failed partialOutput => rfl
  | done d => rfl

theorem afterEngine_stops {d : List Byte} (hv : s.params.verifyTrailer = false) (hstop : host.stopEarly = true) :
    afterEngine s f chop host (.done d) = (.ok d, s) := by
  simp [afterEngine, hv, hstop]

theorem afterEngine_goesOn {d : List Byte} (h : s.params.verifyTrailer = true ∨ host.stopEarly = false) :
    afterEngine s f chop host (.done d) =
      ((answerOf (runRequests s (checkRequests (chop d) (trailerOf f))).1).map (fun _ => d),
        (runRequests s (checkRequests (chop d) (trailerOf f))).2) := by
  have hgo : ¬ (host.stopEarly && !s.params.verifyTrailer) = true := by
    rcases h with h | h <;> simp [h]
  rw [afterEngine, if_neg hgo]

end

/-- Settles O34: a frame that is not accepted is turned away by step 1, and an accepted one by the engine or the trailer. -/
theorem decodeProcedureRejects : Obligations.DecodeProcedureRejects := by
  intro s f decompress chop host hchop
  refine ⟨decodeProcedure_tooLong, fun hshort => ?_, fun _ hlt hfail => ?_, fun pre out t0 t1 t2 t3 hf hpre hd => ?_,
    fun pre d t0 t1 t2 t3 hv hpre hd hne => ?_⟩
  · refine decodeProcedure_not_accepted (by omega) fun ⟨_, hleast, _⟩ => ?_
    rcases hshort with h6 | ⟨h10, hfdict⟩
    · exact absurd (hleast.trans_lt h6) (Nat.not_lt.mpr (six_le_leastFrame _))
    · rw [leastFrame, hfdict] at hleast
      exact absurd (hleast.trans_lt h10) (by decide)
  · exact decodeProcedure_not_accepted hlt fun ⟨hpass, _⟩ => hfail hpass
  · rw [decodeProcedure_accepted hf hpre, hd]
    exact ⟨rfl, rfl, rfl⟩
  · by_cases hf : FrameAccepted s.params f
    · obtain ⟨hwf, hbytes⟩ := hchop d
      have hne' : (trailerOf f).toNat ≠ calculate (chunkBytes (chop d)) := by
        rwa [hpre, trailerOf_toNat, hbytes]
      have hanswer := checkRequests_mismatch (s := openedFor s f) hwf hv hne'
      rw [decodeProcedure_accepted hf hpre, hd, afterEngine_goesOn (s := openedFor s f) (.inl hv), hanswer]
      exact ⟨_, rfl, fun _ => rfl⟩
    · by_cases hlt : f.length < 2 ^ 32
      · exact ⟨_, decodeProcedure_not_accepted hlt hf, fun h => absurd h hf⟩
      · exact ⟨_, congrArg Prod.fst (decodeProcedure_tooLong (Nat.not_lt.mp hlt)), fun h => absurd h hf⟩

/-- Settles O56: a host that stops leaves the opened frame, and one that goes on adds what the checksum run writes. -/
theorem decodeProcedureReturns : Obligations.DecodeProcedureReturns := by
  intro s f pre d t0 t1 t2 t3 decompress chop host hchop hf hpre hd hok
  rw [decodeProcedure_accepted hf hpre, hd]
  by_cases hgo : s.params.verifyTrailer = true ∨ host.stopEarly = false
  · obtain ⟨hwf, hbytes⟩ := hchop d
    have htrailer : (trailerOf f).toNat = calculate (chunkBytes (chop d)) ↔ trailerNat t0 t1 t2 t3 = calculate d := by
      rw [hpre, trailerOf_toNat, hbytes]
    obtain ⟨p, a, b, hanswer, hregs⟩ := checkRequests_ok (s := openedFor s f) hwf (hok.imp_right htrailer.mpr)
    rw [afterEngine_goesOn (s := openedFor s f) hgo, hanswer]
    refine ⟨_, rfl, ?_⟩
    rw [hregs, decide_eq_decide.mpr htrailer]
    refine ⟨rfl, rfl, fun hv hstop => ?_, fun _ => ⟨rfl, decide_eq_true_iff⟩⟩
    simp [hv, hstop] at hgo
  · obtain ⟨hv, hstop⟩ : s.params.verifyTrailer = false ∧ host.stopEarly = true := by simpa using hgo
    rw [afterEngine_stops (s := openedFor s f) hv hstop]
    exact ⟨_, rfl, rfl, rfl, fun _ _ => ⟨rfl, rfl, rfl, rfl⟩, fun h => absurd h hgo⟩

end Sys2Proof.Machine
end

section
/-! The control requests, one at a time: encoding, response and writes (43_control.md R86 to R89). -/

namespace Sys2Proof.Machine

/-- A row that matches the whole command word has no operands: it decodes its opcode with 0 above it to one instruction,
whatever the operand word (30_encoding.md R51). -/
theorem decodesAs_of_operandless_row {o : Op} {opc : Byte} {i : Instr}
    (hrow : ⟨o, opc.setWidth 32, 0xFFFFFFFF⟩ ∈ opcodeMap) (hi : ∀ cmd opnd : Word, o.operands cmd opnd = i) :
    DecodesAs opc 0xFFFFFF00 (fun _ _ => i) :=
  decodesAs_of_row hrow rfl rfl (by decide) fun cmd opnd _ => hi cmd opnd

theorem decodesAs_read :
    DecodesAs 0x0B 0xFFFFF800 (fun cmd _ => .read (ReadSel.ofBits (BitVec.ofNat 3 (cmd.toNat / 256)))) :=
  decodesAs_of_row (row := ⟨.read, 0x0000000B, 0xFFFFF8FF⟩) (by decide) (by decide) (by decide) (by decide)
    fun cmd _ _ => congrArg (Instr.read ∘ ReadSel.ofBits) (extract_eq_ofNat cmd 8 3)

theorem exec_nop (s : State) : exec .nop s = .next (s.respond 0) := rfl

theorem exec_read (sel : ReadSel) (s : State) :
    exec (.read sel) s = .next (s.respond (readMap s.params s.regs sel)) := rfl

theorem exec_clrErr (s : State) : exec .clrErr s = .next (s.clearError.respond 0) := rfl

theorem exec_softReset (s : State) : exec .softReset s = .next (s.resetRegs.respond 0) := rfl

/-- The payload starts after the header, or after the header and the DICTID (10_state.md R22; 42_decode.md R79). -/
theorem Regs.payloadOff_eq (r : Regs) :
    r.payloadOff = if r.frameValid then (if r.hdr.getLsbD 5 then 6 else 2) else 0 := rfl

/-- HEADER is read with zeros above its 16 bits (10_state.md R28). -/
theorem readMap_header_toNat (p : Params) (r : Regs) : (readMap p r .header).toNat = r.hdr.toNat :=
  setWidth_word_toNat r.hdr

/-- Settles O35: the row has no operands, and NOP only answers. -/
theorem nopChangesNothing : Obligations.NopChangesNothing :=
  ⟨decodesAs_of_operandless_row (o := .nop) (by decide) fun _ _ => rfl, exec_nop⟩

/-- Settles O36: READ answers the map's value and only answers; the map is then read selector by selector. -/
theorem readReturnsTheMap : Obligations.ReadReturnsTheMap := by
  refine ⟨decodesAs_read, by decide, fun sel s => ⟨readMap s.params s.regs sel, exec_read sel s, ?_⟩⟩
  refine ⟨?adler, ?status, ?header, ?frameLen, ?payloadOff, ?payloadLen, ?trailerOff, ?config⟩ <;> rintro rfl
  case header => exact readMap_header_toNat s.params s.regs
  case payloadOff => exact s.regs.payloadOff_eq
  all_goals rfl

/-- Settles O38: the row has no operands, and CLR_ERR writes the error record alone. -/
theorem clrErrClearsTheRecord : Obligations.ClrErrClearsTheRecord :=
  ⟨decodesAs_of_operandless_row (o := .clrErr) (by decide) fun _ _ => rfl, exec_clrErr⟩

/-- Settles O39: the row has no operands, and SOFT_RESET writes the reset record over the registers. -/
theorem softResetRestoresEveryRegister : Obligations.SoftResetRestoresEveryRegister :=
  ⟨decodesAs_of_operandless_row (o := .softReset) (by decide) fun _ _ => rfl, exec_softReset⟩

end Sys2Proof.Machine
end

section
/-! Which command words are illegal, and that no other word ends in IllegalCommand (60_exceptions.md R93, R94). -/

namespace Sys2Proof.Machine

/-- The opcode of a command word, as a number (30_encoding.md R49). -/
theorem opcode_toNat (cmd : Word) : (cmd &&& 0xFF).toNat = cmd.toNat % 256 :=
  Nat.and_two_pow_sub_one_eq_mod cmd.toNat 8

/-- A word has zeros from bit `k` on exactly when nothing of it is left above `k`. -/
theorem and_highBits_eq_zero_iff (cmd : Word) (k : Nat) :
    cmd &&& (BitVec.allOnes 32 <<< k) = 0 ↔ cmd.toNat / 2 ^ k = 0 := by
  have hle : cmd.toNat / 2 ^ k * 2 ^ k < 2 ^ 32 := (Nat.div_mul_le_self _ _).trans_lt cmd.isLt
  rw [← BitVec.shiftLeft_ushiftRight, ← BitVec.toNat_inj, BitVec.toNat_shiftLeft, BitVec.toNat_ushiftRight,
    Nat.shiftRight_eq_div_pow, Nat.shiftLeft_eq, Nat.mod_eq_of_lt hle]
  exact Nat.mul_eq_zero.trans (or_iff_left (Nat.two_pow_pos k).ne')

/-- A row whose mask is the opcode byte and the bits `z` matches a word of its opcode exactly when those bits are 0. -/
theorem matches_iff_zero_bits {o : Op} {cmd z : Word} (hopc : cmd.toNat % 256 = (Op.matchMask o).1.toNat)
    (hmask : (Op.matchMask o).2 = z ||| 0xFF) (hz : z &&& 0xFF = 0) : Op.Matches o cmd ↔ cmd &&& z = 0 := by
  have hbyte : cmd &&& 0xFF = (Op.matchMask o).1 := BitVec.eq_of_toNat_eq ((opcode_toNat cmd).trans hopc)
  exact beq_iff_eq.symm.trans (OpRow.selects_iff_zero_bits (row := ⟨o, _, _⟩) hmask hz hbyte)

/-- A row whose zero bits are all those from bit `k` on, said of the number of the word. -/
theorem matches_iff_of_highBits {o : Op} {cmd : Word} (hopc : cmd.toNat % 256 = (Op.matchMask o).1.toNat) (k : Nat)
    (hmask : (Op.matchMask o).2 = BitVec.allOnes 32 <<< k ||| 0xFF) (hz : BitVec.allOnes 32 <<< k &&& 0xFF = 0#32) :
    Op.Matches o cmd ↔ cmd.toNat / 2 ^ k = 0 :=
  (matches_iff_zero_bits hopc hmask hz).trans (and_highBits_eq_zero_iff cmd k)

/-- The zero bits of HDR_MAKE are bits 31:16 and bit 11 (30_encoding.md R51). -/
theorem matches_hdrMake_iff {cmd : Word} (hopc : cmd.toNat % 256 = 5) :
    Op.Matches .hdrMake cmd ↔ cmd.toNat / 2 ^ 16 = 0 ∧ cmd.getLsbD 11 = false := by
  have hbit : cmd &&& BitVec.twoPow 32 11 = 0 ↔ cmd.getLsbD 11 = false := by
    rw [BitVec.and_twoPow]
    cases cmd.getLsbD 11 <;> decide
  rw [matches_iff_zero_bits (z := BitVec.allOnes 32 <<< 16 ||| BitVec.twoPow 32 11) hopc (by decide) (by decide),
    BitVec.and_or_distrib_left, ← and_highBits_eq_zero_iff, ← hbit]
  exact BitVec.or_eq_zero_iff

/-- Among the words of a row's opcode the illegal ones are those that the row does not match. -/
theorem illegalCmd_iff_not_matches {o : Op} {cmd : Word} (hopc : cmd.toNat % 256 = (Op.matchMask o).1.toNat) :
    IllegalCmd cmd ↔ ¬ Op.Matches o cmd := by
  cases o with
  | nop | adlerInit | hdrEmit | trlPack | trlCheck | clrErr | softReset =>
    rw [matches_iff_of_highBits hopc 8 (by decide) (by decide)]
    simp [IllegalCmd, hopc, Op.matchMask]
  | adlerAcc | encBegin | trlByte =>
    rw [matches_iff_of_highBits hopc 10 (by decide) (by decide)]
    simp [IllegalCmd, hopc, Op.matchMask]
  | hdrMake =>
    rw [matches_hdrMake_iff hopc, not_and_or, Bool.not_eq_false]
    simp [IllegalCmd, hopc, Op.matchMask]
  | hdrCheck | frameParse =>
    rw [matches_iff_of_highBits hopc 24 (by decide) (by decide)]
    simp [IllegalCmd, hopc, Op.matchMask]
  | read =>
    rw [matches_iff_of_highBits hopc 11 (by decide) (by decide)]
    simp [IllegalCmd, hopc, Op.matchMask]

/-- Opcodes 0x00 to 0x0D each have their row (30_encoding.md R54). -/
theorem exists_op_of_opcode {n : Nat} (h : n < 14) : ∃ o : Op, n = (Op.matchMask o).1.toNat := by
  have hrows : ∀ n < 14, ∃ row ∈ opcodeMap, n = (Op.matchMask row.op).1.toNat := by decide
  obtain ⟨row, -, hn⟩ := hrows n h
  exact ⟨row.op, hn⟩

/-- A row matches words of its own opcode alone, which is below 0x0E. -/
theorem opcode_of_matches {o : Op} {cmd : Word} (h : Op.Matches o cmd) :
    cmd.toNat % 256 = (Op.matchMask o).1.toNat := by
  obtain ⟨row, hrow, rfl, hsel⟩ := exists_selects_of_matches h
  rw [opcodeMap_matchMask row hrow, OpRow.pattern_of_selects hrow hsel, opcode_toNat]

/-- The illegal words are those that no row matches: a reserved opcode has no row, and a defined one has one. -/
theorem illegalCmd_iff (cmd : Word) : IllegalCmd cmd ↔ ∀ o : Op, ¬ Op.Matches o cmd := by
  refine ⟨fun hill o ho => (illegalCmd_iff_not_matches (opcode_of_matches ho)).mp hill ho, fun hnone => ?_⟩
  by_cases hreserved : 14 ≤ cmd.toNat % 256
  · exact .inl hreserved
  · obtain ⟨o, hopc⟩ := exists_op_of_opcode (Nat.lt_of_not_le hreserved)
    exact (illegalCmd_iff_not_matches hopc).mpr (hnone o)

/-- A decoded request succeeds where the table of 60_exceptions.md R94 has no error, and raises the table's error
elsewhere; that is never IllegalCommand. -/
theorem exec_cases_errorTable (i : Instr) (s : State) :
    (ErrorTable s i 0 ∧ ∃ (u : State) (v : Word), exec i s = .next (u.respond v))
      ∨ ∃ e : Err, e ≠ .illegalCommand ∧ ErrorTable s i e.code ∧ exec i s = .next (s.raise e) := by
  cases i with
  | encBegin m =>
    by_cases hm : m = 3
    · subst hm
      exact .inr ⟨.invalidArgument, nofun, ⟨fun _ => rfl, fun h => absurd rfl h⟩, exec_encBegin_three s⟩
    · exact .inl ⟨⟨fun h => absurd h hm, fun _ => rfl⟩, _, _, exec_encBegin hm s⟩
  | hdrMake cinfo flevel fd =>
    cases fd with
    | true => exact .inr ⟨.notImplemented, nofun, ⟨fun _ => rfl, nofun⟩, exec_hdrMake_fdict cinfo flevel s⟩
    | false => exact .inl ⟨⟨nofun, fun _ => rfl⟩, _, _, exec_hdrMake cinfo flevel s⟩
  | hdrCheck cmf flg =>
    by_cases hpass : HeaderPasses s.params cmf flg
    · exact .inl ⟨⟨fun h => absurd hpass h, fun _ => rfl⟩, _, _, exec_hdrCheck hpass⟩
    · exact .inr ⟨.malformedInput, nofun, ⟨fun _ => rfl, fun h => absurd h hpass⟩, exec_hdrCheck_rejected hpass⟩
  | frameParse cmf flg len =>
    by_cases hfail : ¬ HeaderPasses s.params cmf flg ∨ len.toNat < leastFrame flg
    · refine .inr ⟨.malformedInput, nofun, ⟨fun _ => rfl, fun hlen hpass => ?_⟩, exec_frameParse_rejected hfail⟩
      exact absurd hlen (Nat.not_le.mpr (hfail.resolve_left (not_not_intro hpass)))
    · obtain ⟨hpass, hlen⟩ := not_or.mp hfail
      exact .inl ⟨⟨fun h => absurd h.symm hfail, fun _ _ => rfl⟩, _, _,
        exec_frameParse (not_not.mp hpass) (Nat.not_lt.mp hlen)⟩
  | trlCheck t =>
    by_cases hok : s.params.verifyTrailer = false ∨ t = s.regs.adler
    · refine .inl ⟨⟨fun hv hne => ?_, fun _ => rfl⟩, _, _, exec_trlCheck hok⟩
      exact absurd (hok.resolve_left (Bool.not_eq_false _ ▸ hv)) hne
    · obtain ⟨hv, hne⟩ := not_or.mp hok
      exact .inr ⟨.checksumMismatch, nofun, ⟨fun _ _ => rfl, fun h => absurd h hok⟩,
        exec_trlCheck_rejected (Bool.not_eq_false _ ▸ hv) hne⟩
  | _ => exact .inl ⟨rfl, _, _, rfl⟩

theorem Err.code_ne_seven {e : Err} (h : e ≠ .illegalCommand) : e.code ≠ 7 := by
  cases e with
  | illegalCommand => exact absurd rfl h
  | _ => decide

/-- A decoded request answers the table's code, which is not that of IllegalCommand. -/
theorem exec_errorTable (i : Instr) (s : State) : ∃ (t : State) (p : Response),
    exec i s = .next t ∧ t.rsp = some p ∧ ErrorTable s i p.err ∧ p.err ≠ 7 := by
  rcases exec_cases_errorTable i s with ⟨htable, u, v, hexec⟩ | ⟨e, hne, htable, hexec⟩
  · exact ⟨_, _, hexec, u.respond_rsp v, htable, (by decide : (0 : BitVec 3) ≠ 7)⟩
  · exact ⟨_, _, hexec, s.raise_rsp e, htable, e.code_ne_seven hne⟩

/-- Settles O4: an illegal word is one that no row matches, and any other is executed, with a code of the table. -/
theorem illegalCommandExactly : Obligations.IllegalCommandExactly := by
  intro s cmd opnd rest hin
  obtain ⟨-, hrow, hnone, -⟩ := requestRunsTheRowThatMatches s ⟨cmd, opnd⟩ rest hin
  refine ⟨illegalCmd_iff cmd, fun hill => hnone ((illegalCmd_iff cmd).mp hill), fun hlegal => ?_⟩
  obtain ⟨o, ho⟩ : ∃ o : Op, Op.Matches o cmd := by simpa [illegalCmd_iff] using hlegal
  obtain ⟨i, -, -, hstep⟩ := hrow o ho
  obtain ⟨t, p, hexec, hrsp, -, hcode⟩ := exec_errorTable i { s with inputs := rest }
  exact ⟨t, p, hstep.trans hexec, hrsp, hcode⟩

/-- Settles O46: a decoded request by the table, and a word that no row matches by IllegalCommand. -/
theorem whichRequestsRaiseWhichErrors : Obligations.WhichRequestsRaiseWhichErrors := by
  refine ⟨fun i s => ?_, fun s r rest hin hno => ?_⟩
  · obtain ⟨t, p, hexec, hrsp, htable, -⟩ := exec_errorTable i s
    exact ⟨t, p, hexec, hrsp, htable⟩
  · obtain ⟨-, -, hnone, -⟩ := requestRunsTheRowThatMatches s r rest hin
    exact ⟨_, _, hnone hno, rfl, rfl⟩

end Sys2Proof.Machine
end

section
/-! A state and a changed copy of it, stepped side by side. -/

namespace Sys2Proof.Machine

/-- A change `f` of a state that leaves what the host presents changes the step by what it changes each outcome:
idle edge, reset, IllegalCommand, and decoded request. -/
theorem step_related {f : State → State} {R : State → State → Prop}
    (hinput : ∀ s, (f s).nextInput = (s.nextInput.1, f s.nextInput.2)) (hidle : ∀ s, R s.idleEdge (f s).idleEdge)
    (hreset : ∀ s, R s.hardReset (f s).hardReset)
    (hillegal : ∀ s, R (s.raise .illegalCommand) ((f s).raise .illegalCommand))
    (hexec : ∀ i s, ∃ t t', exec i s = .next t ∧ exec i (f s) = .next t' ∧ R t t') (s : State) :
    ∃ t t', step s = .next t ∧ step (f s) = .next t' ∧ R t t' := by
  rw [step, step, hinput]
  generalize s.nextInput = taken
  obtain ⟨x, u⟩ := taken
  cases x with
  | idle => exact ⟨_, _, rfl, rfl, hidle u⟩
  | reset presented => exact ⟨_, _, rfl, rfl, hreset u⟩
  | requestThenReset r => exact ⟨_, _, rfl, rfl, hreset u⟩
  | request r =>
    cases hdec : decode r with
    | error e => exact ⟨_, _, serve_error hdec u, serve_error hdec (f u), hillegal u⟩
    | ok i =>
      obtain ⟨t, t', ht, ht', hR⟩ := hexec i u
      exact ⟨t, t', (serve_ok hdec u).trans ht, (serve_ok hdec (f u)).trans ht', hR⟩

end Sys2Proof.Machine
end

section
/-! The error effect, the response codes and the error record (60_exceptions.md R92, R95 to R98). -/

namespace Sys2Proof.Machine

/-- Settles O45: a request either raises, which is exactly the error effect, or answers code 0. -/
theorem errorEffect : Obligations.ErrorEffect := by
  intro s r rest hin
  obtain ⟨t, hserve, htaken⟩ := serve_takenTo r { s with inputs := rest }
  rw [step_of_inputs hin, takeInput_request]
  cases htaken with
  | raised r e => exact ⟨_, _, hserve, State.raise_rsp _ e, fun _ => State.raise_eq _ e⟩
  | done r i v => exact ⟨_, ⟨0, v⟩, hserve, rfl, fun herr => absurd rfl herr⟩

theorem Err.code_mem_responseCodes (e : Err) : e.code ∈ [(0 : BitVec 3), 1, 2, 3, 4, 7] := by
  cases e <;> decide

/-- Settles O47: an error answers its own code with data 0, and a success answers code 0. -/
theorem responseCodes : Obligations.ResponseCodes := by
  intro s r rest hin
  obtain ⟨t, hserve, htaken⟩ := serve_takenTo r { s with inputs := rest }
  rw [step_of_inputs hin, takeInput_request]
  cases htaken with
  | raised r e => exact ⟨_, _, hserve, State.raise_rsp _ e, e.code_mem_responseCodes, fun _ => rfl⟩
  | done r i v => exact ⟨_, ⟨0, v⟩, hserve, rfl, List.mem_cons_self, fun herr => absurd rfl herr⟩

/-- An error leaves its code and the sticky flag in the record (60_exceptions.md R96). -/
theorem afterError_record (r : Regs) (e : BitVec 3) :
    (afterError r e).errCode = e ∧ (afterError r e).errSticky = true := by
  unfold afterError
  split <;> exact ⟨rfl, rfl⟩

/-- Of the requests that succeed only CLR_ERR and SOFT_RESET write the error record (10_state.md R15). -/
theorem writes_record {s : State} {i : Instr} (hclr : i ≠ .clrErr) (hsoft : i ≠ .softReset) :
    (writes s i).regs.errCode = s.regs.errCode ∧ (writes s i).regs.errSticky = s.regs.errSticky := by
  cases i with
  | clrErr => exact absurd rfl hclr
  | softReset => exact absurd rfl hsoft
  | _ => exact ⟨rfl, rfl⟩

/-- CLR_ERR and SOFT_RESET answer code 0 and clear the error record (43_control.md R88, R89). -/
theorem serve_clears_record {r : Request} (h : decode r = .ok .clrErr ∨ decode r = .ok .softReset) (s : State) :
    ∃ t : State, serve r s = .next t ∧ t.rsp = some ⟨0, 0⟩ ∧ t.regs.errCode = 0 ∧ t.regs.errSticky = false := by
  rcases h with h | h
  · exact ⟨_, (serve_ok h s).trans (exec_clrErr s), rfl, rfl, rfl⟩
  · exact ⟨_, (serve_ok h s).trans (exec_softReset s), rfl, rfl, rfl⟩

/-- What a request leaves in the error record, by its code and by whether it is one of the two that clear it. -/
theorem serve_record (r : Request) (s : State) : ∃ (t : State) (p : Response), serve r s = .next t ∧ t.rsp = some p
    ∧ (p.err ≠ 0 → t.regs.errCode = p.err ∧ t.regs.errSticky = true)
    ∧ (decode r = .ok .clrErr ∨ decode r = .ok .softReset → t.regs.errCode = 0 ∧ t.regs.errSticky = false)
    ∧ (p.err = 0 → decode r ≠ .ok .clrErr → decode r ≠ .ok .softReset →
        t.regs.errCode = s.regs.errCode ∧ t.regs.errSticky = s.regs.errSticky) := by
  by_cases hclears : decode r = .ok .clrErr ∨ decode r = .ok .softReset
  · obtain ⟨t, hserve, hrsp, hcleared⟩ := serve_clears_record hclears s
    exact ⟨t, _, hserve, hrsp, fun herr => absurd rfl herr, fun _ => hcleared,
      fun _ hclr hsoft => absurd hclears (not_or.mpr ⟨hclr, hsoft⟩)⟩
  · obtain ⟨t, hserve, htaken⟩ := serve_takenTo r s
    cases htaken with
    | raised r e =>
      refine ⟨_, _, hserve, s.raise_rsp e, fun _ => ?_, fun h => absurd h hclears, fun h => absurd h e.code_ne_zero⟩
      rw [State.raise_regs]
      exact afterError_record s.regs e.code
    | done r i v hdec =>
      refine ⟨_, ⟨0, v⟩, hserve, rfl, fun herr => absurd rfl herr, fun h => absurd h hclears, fun _ hclr hsoft => ?_⟩
      exact writes_record (fun hi => hclr (hi ▸ hdec)) (fun hi => hsoft (hi ▸ hdec))

/-- An input that is no request keeps the record on an idle edge and clears it on a reset. -/
theorem takeInput_record {x : HostInput} (hx : ∀ r : Request, x ≠ .request r) (s : State) : ∃ t : State,
    takeInput x s = .next t ∧ (x = .idle → t.regs.errCode = s.regs.errCode ∧ t.regs.errSticky = s.regs.errSticky)
    ∧ (x ≠ .idle → t.regs.errCode = 0 ∧ t.regs.errSticky = false) := by
  cases x with
  | idle => exact ⟨_, takeInput_idle s, fun _ => ⟨rfl, rfl⟩, fun h => absurd rfl h⟩
  | request r => exact absurd rfl (hx r)
  | reset presented => exact ⟨_, takeInput_reset s presented, nofun, fun _ => ⟨rfl, rfl⟩⟩
  | requestThenReset r => exact ⟨_, takeInput_requestThenReset s r, nofun, fun _ => ⟨rfl, rfl⟩⟩

/-- The state with another error record in place. -/
def State.withRecord (code : BitVec 3) (sticky : Bool) (s : State) : State :=
  { s with regs := { s.regs with errCode := code, errSticky := sticky } }

theorem State.nextInput_withRecord (code : BitVec 3) (sticky : Bool) (s : State) :
    (s.withRecord code sticky).nextInput = (s.nextInput.1, s.nextInput.2.withRecord code sticky) := by
  obtain ⟨regs, params, inputs, rsp⟩ := s
  cases inputs <;> rfl

/-- The same response code and, apart from the error record, the same registers (60_exceptions.md R98). -/
def AgreeButRecord (t t' : State) : Prop :=
  t.rsp.map Response.err = t'.rsp.map Response.err
    ∧ { t'.regs with errCode := t.regs.errCode, errSticky := t.regs.errSticky } = t.regs

theorem AgreeButRecord.ite {c : Prop} [Decidable c] {a a' b b' : State} (h : AgreeButRecord a a')
    (h' : AgreeButRecord b b') : AgreeButRecord (if c then a else b) (if c then a' else b') := by
  split
  · exact h
  · exact h'

/-- No request reads the record but to answer it: neither what it writes nor whether it succeeds depends on it. -/
theorem exec_withRecord (code : BitVec 3) (sticky : Bool) (i : Instr) (s : State) : ∃ t t' : State,
    exec i s = .next t ∧ exec i (s.withRecord code sticky) = .next t' ∧ AgreeButRecord t t' := by
  cases i with
  | encBegin | hdrMake | hdrCheck | frameParse | trlCheck => exact ⟨_, _, rfl, rfl, .ite ⟨rfl, rfl⟩ ⟨rfl, rfl⟩⟩
  | _ => exact ⟨_, _, rfl, rfl, rfl, rfl⟩

/-- Settles O48: what each input leaves in the record, and that a step with another record agrees with it elsewhere. -/
theorem errorRecord : Obligations.ErrorRecord := by
  refine ⟨fun s r rest hin => ?_, fun s x rest hin hx => ?_, fun s code sticky => ?_⟩
  · rw [step_of_inputs hin]
    exact serve_record r { s with inputs := rest }
  · rw [step_of_inputs hin]
    exact takeInput_record hx { s with inputs := rest }
  · exact step_related (f := State.withRecord code sticky) (R := AgreeButRecord)
      (State.nextInput_withRecord code sticky) (fun _ => ⟨rfl, rfl⟩) (fun _ => ⟨rfl, rfl⟩) (fun _ => ⟨rfl, rfl⟩)
      (exec_withRecord code sticky) s

end Sys2Proof.Machine
end

section
/-! `ZFRAME_BASE` is read by no rule (60_exceptions.md R103). -/

namespace Sys2Proof.Machine

/-- The state with another base address. -/
def State.withBase (base : Option Nat) (s : State) : State :=
  { s with params := { s.params with zframeBase := base } }

theorem State.nextInput_withBase (base : Option Nat) (s : State) :
    (s.withBase base).nextInput = (s.nextInput.1, s.nextInput.2.withBase base) := by
  obtain ⟨regs, params, inputs, rsp⟩ := s
  cases inputs <;> rfl

/-- Another base address changes no condition of a request, and nothing that the request leaves but the address itself. -/
theorem exec_withBase (base : Option Nat) (i : Instr) (s : State) : ∃ t t' : State,
    exec i s = .next t ∧ exec i (s.withBase base) = .next t' ∧ t' = t.withBase base := by
  cases i with
  | encBegin | hdrMake | hdrCheck | frameParse | trlCheck =>
    refine ⟨_, _, rfl, rfl, ?_⟩
    rw [apply_ite (State.withBase base)]
    rfl
  | _ => exact ⟨_, _, rfl, rfl, rfl⟩

/-- Settles O54: a step commutes with a change of the base address. -/
theorem baseAddressIsReadByNoRule : Obligations.BaseAddressIsReadByNoRule := by
  intro s base
  obtain ⟨t, t', ht, ht', hmoved⟩ := step_related (f := State.withBase base) (R := fun t t' => t' = t.withBase base)
    (State.nextInput_withBase base) (fun _ => rfl) (fun _ => rfl) (fun _ => rfl) (exec_withBase base) s
  exact ⟨t, ht, ht'.trans (congrArg _ hmoved)⟩

end Sys2Proof.Machine
end

section
/-! Steps at several positions of one platform (60_exceptions.md R104). -/

namespace Sys2Proof.Machine

/-- The state after one step; every step answers one. -/
def State.stepped (s : State) : State :=
  match step s with
  | .next t => t
  | .fault _ => s
  | .refused _ => s

theorem step_eq_stepped (s : State) : step s = .next s.stepped := by
  obtain ⟨t, ht, -⟩ := step_takenTo s
  rw [State.stepped, ht]

/-- A step at position `k` replaces the state there, and nothing where there is none. -/
theorem stepAt_eq_modify (p : Platform) (k : Nat) : p.stepAt k = ⟨p.instances.modify k State.stepped⟩ := by
  rw [Platform.stepAt, List.modify_eq_set_getElem?]
  cases p.instances[k]? with
  | none => rfl
  | some s => simp [step_eq_stepped]

/-- Settles O55: replacements at two places of a list do not meet. -/
theorem instancesAreIndependent : Obligations.InstancesAreIndependent := by
  intro p j k hjk
  simp only [stepAt_eq_modify]
  exact ⟨List.getElem?_modify_ne _ _ hjk.symm, congrArg Platform.mk (List.modify_modify_ne _ _ _ hjk.symm)⟩

end Sys2Proof.Machine
end

section
/-! The two kinds of reset (70_reset_and_hazards.md R107, R109, R119). -/

namespace Sys2Proof.Machine

/-- A hardware reset leaves the instance as it was made, but for what the host still presents. -/
theorem State.hardReset_eq (s : State) : s.hardReset = { State.resetOf s.params with inputs := s.inputs } := rfl

/-- Settles O12: both forms of reset take the same hardware reset, and neither serves the request it comes with. -/
theorem resetWinsOverRequests : Obligations.ResetWinsOverRequests := by
  intro s rest x hin hx
  rw [step_of_inputs hin]
  rcases hx with ⟨presented, rfl⟩ | ⟨r, rfl⟩
  · rw [takeInput_reset, State.hardReset_eq]
  · rw [takeInput_requestThenReset, State.hardReset_eq]

/-- The state with another response at the port. -/
def State.withRsp (o : Option Response) (s : State) : State :=
  { s with rsp := o }

theorem State.nextInput_withRsp (o : Option Response) (s : State) :
    (s.withRsp o).nextInput = (s.nextInput.1, s.nextInput.2.withRsp o) := by
  obtain ⟨regs, params, inputs, rsp⟩ := s
  cases inputs <;> rfl

/-- SOFT_RESET leaves what a hardware reset leaves, and its response (43_control.md R89). -/
theorem State.respond_resetRegs (s : State) (v : Word) :
    s.resetRegs.respond v = s.hardReset.withRsp (some ⟨0, v⟩) := rfl

/-- Every request overwrites the response that stood before it, and reads it nowhere. -/
theorem exec_withRsp (o : Option Response) (i : Instr) (s : State) :
    ∃ t t' : State, exec i s = .next t ∧ exec i (s.withRsp o) = .next t' ∧ t = t' := by
  cases i <;> exact ⟨_, _, rfl, rfl, rfl⟩

/-- A step does not depend on the response of the step before. -/
theorem step_withRsp (o : Option Response) (s : State) : step (s.withRsp o) = step s := by
  obtain ⟨t, t', ht, ht', rfl⟩ := step_related (f := State.withRsp o) (R := Eq)
    (State.nextInput_withRsp o) (fun _ => rfl) (fun _ => rfl) (fun _ => rfl) (exec_withRsp o) s
  exact ht'.trans ht.symm

/-- A run from a state with another response at the port answers the same responses and ends with the same registers. -/
theorem run_withRsp (o : Option Response) (s : State) (xs : List HostInput) :
    (run (s.withRsp o) xs).1 = (run s xs).1 ∧ (run (s.withRsp o) xs).2.regs = (run s xs).2.regs := by
  cases xs with
  | nil => exact ⟨rfl, rfl⟩
  | cons x xs =>
    obtain ⟨t, ht, -⟩ := takeInput_takenTo x s
    have ht' : takeInput x (s.withRsp o) = .next t := by
      rw [← step_offer] at ht ⊢
      exact (step_withRsp o (s.offer x)).trans ht
    rw [run_cons ht, run_cons ht']
    exact ⟨rfl, rfl⟩

/-- Settles O44: the two resets leave states that differ only in the response at the port, which no later step reads. -/
theorem softResetEqualsHardwareReset : Obligations.SoftResetEqualsHardwareReset := by
  intro s xs opnd
  have hsoft : takeInput (.request ⟨0x0000000D, opnd⟩) s = .next (s.hardReset.withRsp (some ⟨0, 0⟩)) := by
    rw [takeInput_request, serve_ok (decode_softReset opnd), exec_softReset, State.respond_resetRegs]
  obtain ⟨hresponses, hregs⟩ := run_withRsp (some ⟨0, 0⟩) s.hardReset xs
  rw [run_cons hsoft, run_cons (takeInput_reset s none)]
  exact ⟨congrArg (List.cons (⟨0, 0⟩ : Response)) hresponses, hregs⟩

end Sys2Proof.Machine
end
